-- ==== Sys2Proof/Word.lean ====
section
/-! DEFINITION. The word types of the CHIP-8 interpreter core (spec/00_scope.md R6, R8, R9): bytes, 16-bit words,
12-bit addresses as an instruction holds them, register numbers and 4-bit counts. -/

namespace Sys2Proof

/-- An 8-bit value: a general register, a timer, a memory byte, an immediate NN (R6, R91). -/
abbrev Byte := BitVec 8

/-- A 16-bit value: PC, I, a stack entry, an instruction word (R6, R90). -/
abbrev Word := BitVec 16

/-- The 12-bit address field NNN of an instruction (R91). -/
abbrev Addr := BitVec 12

/-- The number of a general register, V0 to VF (R21). -/
abbrev Reg := Fin 16

/-- The 4-bit count N of DXYN (R92). -/
abbrev Count := Fin 16

/-- The flag register VF (R22). -/
abbrev VF : Reg := 15

end Sys2Proof
end

