-- ==== Sys2Proof/Syntax.lean ====
section
/-! DEFINITION. The 35 instructions of spec/30_encoding.md R95, one constructor a row of spec/opcode_table.json, in the
table's order. A word outside R95 (UNKNOWN, R99) is no instruction: the decoder rejects it by name and the cycle executes it
as R104 says. -/

namespace Sys2Proof

/-- One instruction, its operand fields already taken out of the word (R91 to R93, R96). -/
inductive Instr where
  /-- `SYS addr`, 0NNN (R140). -/
  | sys (nnn : Addr)
  /-- `CLS`, 00E0 (R250). -/
  | cls
  /-- `RET`, 00EE (R141). -/
  | ret
  /-- `JP addr`, 1NNN (R142). -/
  | jp (nnn : Addr)
  /-- `CALL addr`, 2NNN (R143). -/
  | call (nnn : Addr)
  /-- `SE Vx, byte`, 3XNN (R161). -/
  | seImm (x : Reg) (nn : Byte)
  /-- `SNE Vx, byte`, 4XNN (R162). -/
  | sneImm (x : Reg) (nn : Byte)
  /-- `SE Vx, Vy`, 5XY0 (R163). -/
  | seReg (x y : Reg)
  /-- `LD Vx, byte`, 6XNN (R180). -/
  | ldImm (x : Reg) (nn : Byte)
  /-- `ADD Vx, byte`, 7XNN (R181). -/
  | addImm (x : Reg) (nn : Byte)
  /-- `LD Vx, Vy`, 8XY0 (R182). -/
  | ldReg (x y : Reg)
  /-- `OR Vx, Vy`, 8XY1 (R183). -/
  | orReg (x y : Reg)
  /-- `AND Vx, Vy`, 8XY2 (R184). -/
  | andReg (x y : Reg)
  /-- `XOR Vx, Vy`, 8XY3 (R185). -/
  | xorReg (x y : Reg)
  /-- `ADD Vx, Vy`, 8XY4 (R186). -/
  | addReg (x y : Reg)
  /-- `SUB Vx, Vy`, 8XY5 (R187). -/
  | sub (x y : Reg)
  /-- `SHR Vx, Vy`, 8XY6 (R188). -/
  | shr (x y : Reg)
  /-- `SUBN Vx, Vy`, 8XY7 (R189). -/
  | subn (x y : Reg)
  /-- `SHL Vx, Vy`, 8XYE (R190). -/
  | shl (x y : Reg)
  /-- `SNE Vx, Vy`, 9XY0 (R164). -/
  | sneReg (x y : Reg)
  /-- `LD I, addr`, ANNN (R220). -/
  | ldI (nnn : Addr)
  /-- `JP V0, addr`, BNNN (R144); X is the top nibble of NNN (R96 `JP_off(NNN, X)`). -/
  | jpOff (nnn : Addr) (x : Reg)
  /-- `RND Vx, byte`, CXNN (R191). -/
  | rnd (x : Reg) (nn : Byte)
  /-- `DRW Vx, Vy, nibble`, DXYN (R251). -/
  | drw (x y : Reg) (n : Count)
  /-- `SKP Vx`, EX9E (R165). -/
  | skp (x : Reg)
  /-- `SKNP Vx`, EXA1 (R166). -/
  | sknp (x : Reg)
  /-- `LD Vx, DT`, FX07 (R270). -/
  | ldFromDT (x : Reg)
  /-- `LD Vx, K`, FX0A (R271). -/
  | ldK (x : Reg)
  /-- `LD DT, Vx`, FX15 (R272). -/
  | ldDT (x : Reg)
  /-- `LD ST, Vx`, FX18 (R273). -/
  | ldST (x : Reg)
  /-- `ADD I, Vx`, FX1E (R222). -/
  | addI (x : Reg)
  /-- `LD F, Vx`, FX29 (R224). -/
  | ldF (x : Reg)
  /-- `LD B, Vx`, FX33 (R225). -/
  | ldB (x : Reg)
  /-- `LD [I], Vx`, FX55 (R226). -/
  | stRegs (x : Reg)
  /-- `LD Vx, [I]`, FX65 (R227). -/
  | ldRegs (x : Reg)
deriving DecidableEq, Repr

end Sys2Proof
end

