-- ==== Sys2Proof/WellFormed.lean ====
section
/-! DEFINITION. Which terms of `Instr` some word encodes. The field widths are in the types, so two checks remain: SYS does
not stand for the two words that family 0 decodes otherwise, and the X of JP V0 is the top nibble of its NNN. -/

namespace Sys2Proof

/-- An instruction is well formed if a word of R95 encodes it: 00E0 and 00EE are CLS and RET, never SYS (R97), and BNNN's X
is `op[11:8]`, which is also `NNN[11:8]` (R93, R144). -/
def Instr.wf : Instr → Bool
  | .sys nnn => nnn != 0x0E0#12 && nnn != 0x0EE#12
  | .jpOff nnn x => x.val == nnn.toNat / 256
  | .cls | .ret | .jp _ | .call _ | .seImm _ _ | .sneImm _ _ | .seReg _ _ | .ldImm _ _ | .addImm _ _ => true
  | .ldReg _ _ | .orReg _ _ | .andReg _ _ | .xorReg _ _ | .addReg _ _ | .sub _ _ | .shr _ _ | .subn _ _ => true
  | .shl _ _ | .sneReg _ _ | .ldI _ | .rnd _ _ | .drw _ _ _ | .skp _ | .sknp _ | .ldFromDT _ | .ldK _ => true
  | .ldDT _ | .ldST _ | .addI _ | .ldF _ | .ldB _ | .stRegs _ | .ldRegs _ => true

end Sys2Proof
end

