-- ==== Sys2Proof/Decode.lean ====
section
/-! DEFINITION. The decoder of spec/30_encoding.md R96, total on any word and on any bytes, and the encoder written from the
same opcode map (R95). A word that is no instruction is rejected by name. -/

namespace Sys2Proof

/-! ### The fields of a word (R91) -/

/-- The family `op[15:12]`. -/
def fieldF (op : Word) : BitVec 4 := op.extractLsb' 12 4

/-- The register number X, `op[11:8]`. -/
def fieldX (op : Word) : Reg := (op.extractLsb' 8 4).toFin

/-- The register number Y, `op[7:4]`. -/
def fieldY (op : Word) : Reg := (op.extractLsb' 4 4).toFin

/-- The low nibble N, `op[3:0]`, as the function nibble of family 8. -/
def fieldN (op : Word) : BitVec 4 := op.extractLsb' 0 4

/-- The low nibble N, `op[3:0]`, as the count of DXYN. -/
def fieldCount (op : Word) : Count := (fieldN op).toFin

/-- The low byte NN, `op[7:0]`. -/
def fieldNN (op : Word) : Byte := op.extractLsb' 0 8

/-- The address NNN, `op[11:0]`. -/
def fieldNNN (op : Word) : Addr := op.extractLsb' 0 12

/-! ### Decoding (R96) -/

/-- Why a decoder gives no instruction. -/
inductive Reject where
  /-- The word decodes to UNKNOWN (R99). -/
  | unknown (op : Word)
  /-- Fewer than the two bytes every instruction has (R90). -/
  | truncated
deriving DecidableEq, Repr

/-- Family 0 is decoded on the whole word (R97). -/
def decode0 (op : Word) : Instr :=
  if op = 0x00E0#16 then .cls
  else if op = 0x00EE#16 then .ret
  else .sys (fieldNNN op)

/-- Family 8 branches on N (R96). -/
def decode8 (op : Word) : Except Reject Instr :=
  let x := fieldX op
  let y := fieldY op
  let n := fieldN op
  if n = 0x0#4 then .ok (.ldReg x y)
  else if n = 0x1#4 then .ok (.orReg x y)
  else if n = 0x2#4 then .ok (.andReg x y)
  else if n = 0x3#4 then .ok (.xorReg x y)
  else if n = 0x4#4 then .ok (.addReg x y)
  else if n = 0x5#4 then .ok (.sub x y)
  else if n = 0x6#4 then .ok (.shr x y)
  else if n = 0x7#4 then .ok (.subn x y)
  else if n = 0xE#4 then .ok (.shl x y)
  else .error (.unknown op)

/-- Family E branches on NN (R96). -/
def decodeE (op : Word) : Except Reject Instr :=
  let x := fieldX op
  let nn := fieldNN op
  if nn = 0x9E#8 then .ok (.skp x)
  else if nn = 0xA1#8 then .ok (.sknp x)
  else .error (.unknown op)

/-- Family F branches on NN (R96). -/
def decodeF (op : Word) : Except Reject Instr :=
  let x := fieldX op
  let nn := fieldNN op
  if nn = 0x07#8 then .ok (.ldFromDT x)
  else if nn = 0x0A#8 then .ok (.ldK x)
  else if nn = 0x15#8 then .ok (.ldDT x)
  else if nn = 0x18#8 then .ok (.ldST x)
  else if nn = 0x1E#8 then .ok (.addI x)
  else if nn = 0x29#8 then .ok (.ldF x)
  else if nn = 0x33#8 then .ok (.ldB x)
  else if nn = 0x55#8 then .ok (.stRegs x)
  else if nn = 0x65#8 then .ok (.ldRegs x)
  else .error (.unknown op)

/-- The decoder: a branch on the family, with a second branch only in families 0, 8, E and F (R96). Families 5 and 9 do not
look at N (R98). The last arm is family 0xF. -/
def decode (op : Word) : Except Reject Instr :=
  match (fieldF op).toNat with
  | 0x0 => .ok (decode0 op)
  | 0x1 => .ok (.jp (fieldNNN op))
  | 0x2 => .ok (.call (fieldNNN op))
  | 0x3 => .ok (.seImm (fieldX op) (fieldNN op))
  | 0x4 => .ok (.sneImm (fieldX op) (fieldNN op))
  | 0x5 => .ok (.seReg (fieldX op) (fieldY op))
  | 0x6 => .ok (.ldImm (fieldX op) (fieldNN op))
  | 0x7 => .ok (.addImm (fieldX op) (fieldNN op))
  | 0x8 => decode8 op
  | 0x9 => .ok (.sneReg (fieldX op) (fieldY op))
  | 0xA => .ok (.ldI (fieldNNN op))
  | 0xB => .ok (.jpOff (fieldNNN op) (fieldX op))
  | 0xC => .ok (.rnd (fieldX op) (fieldNN op))
  | 0xD => .ok (.drw (fieldX op) (fieldY op) (fieldCount op))
  | 0xE => decodeE op
  | _ => decodeF op

/-- The word of two bytes, the first the more significant (R75). -/
def wordOfBytes (hi lo : Byte) : Word := hi ++ lo

/-- The first byte of a word in memory, its more significant one (R75). -/
def highByte (op : Word) : Byte := op.extractLsb' 8 8

/-- The second byte of a word in memory (R75). -/
def lowByte (op : Word) : Byte := op.extractLsb' 0 8

/-- Decoding from bytes: the instruction and the bytes after it. Every instruction is two bytes (R90). -/
def decodeBytes : List Byte → Except Reject (Instr × List Byte)
  | hi :: lo :: rest =>
    match decode (wordOfBytes hi lo) with
    | .ok i => .ok (i, rest)
    | .error r => .error r
  | _ => .error .truncated

/-! ### Encoding (R93, R95) -/

/-- A register number or a count as the four bits of its field. -/
def nibble (k : Fin 16) : BitVec 4 := BitVec.ofFin k

/-- The shape `nnn`: a family and an address. -/
def encNNN (f : BitVec 4) (nnn : Addr) : Word := f ++ nnn

/-- The shape `xnn`: a family, a register and a byte. The shape `x` is the same with NN as a function byte. -/
def encXNN (f : BitVec 4) (x : Reg) (nn : Byte) : Word := f ++ nibble x ++ nn

/-- The shape `xyn`: a family, two registers and a nibble. The shape `xy` is the same with N as a function nibble. -/
def encXYN (f : BitVec 4) (x y : Reg) (n : BitVec 4) : Word := f ++ nibble x ++ nibble y ++ n

/-- The word of an instruction (R95). 5XY0 and 9XY0 are written with N = 0, as their patterns are. -/
def encode : Instr → Word
  | .sys nnn => encNNN 0x0#4 nnn
  | .cls => 0x00E0#16
  | .ret => 0x00EE#16
  | .jp nnn => encNNN 0x1#4 nnn
  | .call nnn => encNNN 0x2#4 nnn
  | .seImm x nn => encXNN 0x3#4 x nn
  | .sneImm x nn => encXNN 0x4#4 x nn
  | .seReg x y => encXYN 0x5#4 x y 0x0#4
  | .ldImm x nn => encXNN 0x6#4 x nn
  | .addImm x nn => encXNN 0x7#4 x nn
  | .ldReg x y => encXYN 0x8#4 x y 0x0#4
  | .orReg x y => encXYN 0x8#4 x y 0x1#4
  | .andReg x y => encXYN 0x8#4 x y 0x2#4
  | .xorReg x y => encXYN 0x8#4 x y 0x3#4
  | .addReg x y => encXYN 0x8#4 x y 0x4#4
  | .sub x y => encXYN 0x8#4 x y 0x5#4
  | .shr x y => encXYN 0x8#4 x y 0x6#4
  | .subn x y => encXYN 0x8#4 x y 0x7#4
  | .shl x y => encXYN 0x8#4 x y 0xE#4
  | .sneReg x y => encXYN 0x9#4 x y 0x0#4
  | .ldI nnn => encNNN 0xA#4 nnn
  | .jpOff nnn _ => encNNN 0xB#4 nnn
  | .rnd x nn => encXNN 0xC#4 x nn
  | .drw x y n => encXYN 0xD#4 x y (nibble n)
  | .skp x => encXNN 0xE#4 x 0x9E#8
  | .sknp x => encXNN 0xE#4 x 0xA1#8
  | .ldFromDT x => encXNN 0xF#4 x 0x07#8
  | .ldK x => encXNN 0xF#4 x 0x0A#8
  | .ldDT x => encXNN 0xF#4 x 0x15#8
  | .ldST x => encXNN 0xF#4 x 0x18#8
  | .addI x => encXNN 0xF#4 x 0x1E#8
  | .ldF x => encXNN 0xF#4 x 0x29#8
  | .ldB x => encXNN 0xF#4 x 0x33#8
  | .stRegs x => encXNN 0xF#4 x 0x55#8
  | .ldRegs x => encXNN 0xF#4 x 0x65#8

/-- The two bytes of an instruction in memory, lowest address first (R75). -/
def encodeBytes (i : Instr) : List Byte := [highByte (encode i), lowByte (encode i)]

/-- The word whose bits are the low `nbits` bits of `w`, every bit above them 0. -/
def tableWord (nbits w : Nat) : Word := BitVec.ofNat 16 (w % 2 ^ nbits)

/-- The instruction the decoder reads from a row's word, its bits numbered as spec/opcode_table.json numbers them (bit 0 the
least significant of the word). The bytes are laid out big-endian and given to the byte decoder. -/
def decodeTableWord (nbits w : Nat) : Option Instr :=
  match decodeBytes [highByte (tableWord nbits w), lowByte (tableWord nbits w)] with
  | .ok (i, _) => some i
  | .error _ => none

end Sys2Proof
end

