-- ==== Sys2Proof/Config.lean ====
section
/-! DEFINITION. The construction-time configuration of the core (spec/00_scope.md R6, R7; spec/10_state.md R37) and the values
the spec leaves open, as constants without a body. -/

namespace Sys2Proof

/-- The four OPEN parameters of R6. They are fixed when the core is constructed, and neither reset nor any instruction changes
them (R7, R37). Every meaning takes them as an argument, through the state's field `cfg`. -/
structure Config where
  /-- SHIFT_SOURCE_VY: true is the legacy shift (source VY), false the modern one (VX in place). -/
  shiftSourceVY : Bool
  /-- JUMP_OFFSET_VX: true is NNN + VX for BNNN, false is NNN + V0. -/
  jumpOffsetVX : Bool
  /-- STACK_LIMIT: no limit, or the number of entries the stack may hold. -/
  stackLimit : Option Nat
  /-- FONT: the 80 bytes that reset puts at 0x050. -/
  font : Vector Byte 80
deriving DecidableEq, Repr, Inhabited

/-- The premise under which the spec takes FONT as a parameter: FONT[50] = 0xF0 (R6, R66). -/
def Config.fontPremise (cfg : Config) : Bool := cfg.font[50] == 0xF0#8

/-- The configuration the core was constructed with: the spec states none (R37), so it is a free value.
DESIGN CHOICE (log entry 1); safe, since nothing can be proved of its value. -/
opaque Config.constructed : Config

/-- TICK for the n-th cycle the core draws inputs for: any Boolean (R121, R122). DESIGN CHOICE (log entry 2); safe. -/
opaque Config.tickDraw : Nat → Bool

/-- RAND for the n-th cycle the core draws inputs for: any byte (R121). DESIGN CHOICE (log entry 2); safe. -/
opaque Config.randDraw : Nat → Byte

end Sys2Proof
end

