-- ==== Sys2Proof/Machine/Memory.lean ====
section
/-! DEFINITION. The memory array of spec/20_memory.md R60, R61 as a list of address and byte pairs in one canonical form:
addresses strictly rising, and no entry equal to what reset leaves at its address. -/

namespace Sys2Proof.Machine

/-- The listed bytes of the memory array; an unlisted address reads as `resetByte` says. -/
abbrev Memory := List Host.Cell

/-- What reset leaves at an address before the ROM is copied: FONT at 0x050 to 0x09F and 0x00 elsewhere (R41, R61, R66). It
is what an unlisted address reads as. -/
def resetByte (cfg : Config) (a : Nat) : Byte :=
  if h : 0x050 ≤ a ∧ a < 0x0A0 then cfg.font[a - 0x050] else 0x00#8

/-- The listed byte at an address, if there is one. -/
def Memory.lookup (a : Nat) : Memory → Option Byte
  | [] => none
  | (b, v) :: m => if b = a then some v else Memory.lookup a m

/-- The list without the entries of one address. -/
def Memory.erase (a : Nat) : Memory → Memory
  | [] => []
  | (b, v) :: m => if b = a then Memory.erase a m else (b, v) :: Memory.erase a m

/-- The list with one address's entry put in its place. -/
def Memory.insert (a : Nat) (v : Byte) : Memory → Memory
  | [] => [(a, v)]
  | (b, w) :: m =>
    if b < a then (b, w) :: Memory.insert a v m
    else if b = a then (a, v) :: m
    else (a, v) :: (b, w) :: m

/-- `mem[a]`. -/
def Memory.read (cfg : Config) (m : Memory) (a : Nat) : Byte := (Memory.lookup a m).getD (resetByte cfg a)

/-- `mem[a] <- v`, keeping the canonical form: writing what reset left takes the entry out. -/
def Memory.write (cfg : Config) (m : Memory) (a : Nat) (v : Byte) : Memory :=
  if v = resetByte cfg a then Memory.erase a m else Memory.insert a v m

/-- `a` lies below every listed address. -/
def Memory.above (a : Nat) (m : Memory) : Bool := m.all fun c => decide (a < c.1)

/-- The listed addresses rise strictly. -/
def Memory.rising : Memory → Bool
  | [] => true
  | c :: m => Memory.above c.1 m && Memory.rising m

/-- The canonical form: addresses strictly rising, inside 0x000 to 0xFFF (R60), and no entry equal to what its address reads
as unlisted. -/
def Memory.wf (cfg : Config) (m : Memory) : Bool :=
  Memory.rising m && m.all fun c => decide (c.1 ≤ 0xFFF) && c.2 != resetByte cfg c.1

end Sys2Proof.Machine
end

