-- ==== Sys2Proof/Machine/Setup.lean ====
section
/-! DEFINITION. The configuration of the machine that `State.reset` describes. -/

namespace Sys2Proof.Machine

/-- The configuration in force at `State.reset`: the one the core was constructed with, which the spec leaves open (R6, R37).
DESIGN CHOICE (log entry 1). -/
def constructedConfig : Config := Config.constructed

end Sys2Proof.Machine
end

