-- ==== Sys2Proof/Machine/State.lean ====
section
/-! DEFINITION. The state of the core (spec/10_state.md R20) as plain data, the fault codes (spec/60_exceptions.md R301), and
the state right after reset (R41). -/

namespace Sys2Proof.Machine

/-- The fault codes of R301. A fault is taken as R305 describes it, by `raise`, and ends in a NEXT state that holds the record;
no step of this model ends in an `Outcome.fault` (log entry 3). All are safe: the spec's own core halts there. -/
inductive Fault where
  /-- Code 1, E_STACK_UNDERFLOW: RET with an empty stack (R141). Safe. -/
  | stackUnderflow
  /-- Code 2, E_STACK_OVERFLOW: CALL with a stack of STACK_LIMIT entries (R143). Safe. -/
  | stackOverflow
  /-- Code 3, E_FETCH_RANGE: a fetch with PC above 0xFFE (R123). Safe. -/
  | fetchRange
  /-- Code 4, E_READ_RANGE: DXYN or FX65 would read above 0xFFF (R73). Safe. -/
  | readRange
  /-- Code 5, E_WRITE_RANGE: FX33 or FX55 would write above 0xFFF (R73). Safe. -/
  | writeRange
  /-- Code 6, E_RESERVED_WRITE: FX33 or FX55 would write below 0x200 (R62, R73). Safe. -/
  | reservedWrite
  /-- Code 7, E_KEY_INDEX: EX9E or EXA1 with VX above 0xF (R165, R166). Safe. -/
  | keyIndex
deriving DecidableEq, Repr

/-- Why an instruction has no meaning in the model. -/
inductive Refusal where
  /-- Raised by no meaning and by no arm of `exec`: every instruction of the table is modelled. It would be safe. -/
  | notModelled (mnemonic : String)
deriving DecidableEq, Repr

/-- The record a fault leaves (R40): its code, the address of the faulting instruction, its word (none for a fetch fault) and
the value R301's column `info` names. -/
structure FaultRecord where
  code : Fault
  pc : Word
  opcode : Option Word
  info : Option Nat
deriving DecidableEq, Repr

/-- A diagnostic, a report to the host that changes no architectural state (R310). -/
inductive Diag where
  /-- `UNKNOWN_OPCODE` with the address and the word. -/
  | unknownOpcode (pc opcode : Word)
deriving DecidableEq, Repr

/-- The display's cells, `disp[x][y]` with x the column and y the row (R33, R34). -/
abbrev Display := Vector (Vector Bool 32) 64

/-- The state record of R20: exactly its fields. -/
structure Record where
  /-- `mem`, the listed bytes (R60). -/
  mem : Memory
  /-- `V`, the sixteen general registers (R21). -/
  v : Vector Byte 16
  /-- `I`, the index register (R27). -/
  i : Word
  /-- `PC` (R24). -/
  pc : Word
  /-- `stack`, the return addresses; the last is the top (R29). -/
  stack : List Word
  /-- `DT`, the delay timer (R31). -/
  dt : Byte
  /-- `ST`, the sound timer (R31). -/
  st : Byte
  /-- `disp` (R33). -/
  disp : Display
  /-- `key`, true where pressed (R36). -/
  key : Vector Bool 16
  /-- `fault`, none while the core runs (R40). -/
  fault : Option FaultRecord
deriving DecidableEq, Repr

/-- What a step works on: the record of R20 and, beside it, what R20 keeps out of the record and a step of the host's interface
can only find in its one argument: the configuration and the inputs of the cycle, which R6 and R120 make parameters, and the
events reported. `recordCycle` is the cycle with these as parameters again (log entries 1, 2 and 4). -/
structure State extends Record where
  /-- MODEL'S OWN: the configuration, a parameter of the spec's core (R7, R37; log entry 1). -/
  cfg : Config
  /-- MODEL'S OWN: TICK, the input of the next cycle (R121; log entry 2). -/
  tick : Bool
  /-- MODEL'S OWN: RAND, the input of the cycle (R121; log entry 2). -/
  rand : Byte
  /-- MODEL'S OWN: how many pairs of inputs have been drawn; the free values are functions of it (log entry 2). -/
  draws : Nat
  /-- MODEL'S OWN: the diagnostics reported so far, oldest first, the event list R310 allows (log entry 4). -/
  diags : List Diag
deriving DecidableEq, Repr

/-- The machine right after `reset_and_load` of an empty ROM (R41, R340, R341): every field at the value R41 gives, memory
with nothing listed; the model's own fields as log entries 1, 2 and 4 say. -/
def State.reset : State where
  mem := []
  v := Vector.replicate 16 0x00#8
  i := 0x0000#16
  pc := 0x0200#16
  stack := []
  dt := 0x00#8
  st := 0x00#8
  disp := Vector.replicate 64 (Vector.replicate 32 false)
  key := Vector.replicate 16 false
  fault := none
  cfg := constructedConfig
  tick := Config.tickDraw 0
  rand := Config.randDraw 0
  draws := 1
  diags := []

end Sys2Proof.Machine
end

