-- ==== Sys2Proof/Machine/Ops.lean ====
section
/-! DEFINITION. The named operations over registers, memory, stack, timers and inputs (spec/00_scope.md R10), taking a fault
(spec/60_exceptions.md R305) and fetching a word. -/

namespace Sys2Proof.Machine

/-- What a meaning answers. -/
abbrev Result := Host.Outcome State Fault Refusal

/-! ### Registers (R10) -/

/-- `V[x]`. -/
def State.reg (s : State) (x : Reg) : Byte := s.v[x.val]

/-- `V[x] <- b`. -/
def State.setReg (s : State) (x : Reg) (b : Byte) : State := { s with v := s.v.set x.val b }

/-- Every general register at once. -/
def State.setRegs (s : State) (v : Vector Byte 16) : State := { s with v := v }

/-- `I <- a`. -/
def State.setI (s : State) (a : Word) : State := { s with i := a }

/-- `PC <- a`. -/
def State.setPc (s : State) (a : Word) : State := { s with pc := a }

/-- The stack replaced. -/
def State.setStack (s : State) (st : List Word) : State := { s with stack := st }

/-- `DT <- b`. -/
def State.setDt (s : State) (b : Byte) : State := { s with dt := b }

/-- `ST <- b`. -/
def State.setSt (s : State) (b : Byte) : State := { s with st := b }

/-- The display replaced. -/
def State.setDisp (s : State) (d : Display) : State := { s with disp := d }

/-- `key[k] <- pressed`. -/
def State.setKey (s : State) (k : Fin 16) (pressed : Bool) : State := { s with key := s.key.set k.val pressed }

/-- `disp[x][y]` (R34). -/
def State.cell (s : State) (x : Fin 64) (y : Fin 32) : Bool := s.disp[x.val][y.val]

/-! ### Memory (R70 to R73, R77) -/

/-- `mem[a]`, for an address already checked. -/
def State.readByte (s : State) (a : Nat) : Byte := Memory.read s.cfg s.mem a

/-- `mem[a] <- b`, for an address already checked. -/
def State.writeByte (s : State) (a : Nat) (b : Byte) : State := { s with mem := Memory.write s.cfg s.mem a b }

/-- The n bytes from a, read at increasing addresses (R77). -/
def State.readBlock (s : State) (a : Nat) : Nat → List Byte
  | 0 => []
  | n + 1 => s.readByte a :: s.readBlock (a + 1) n

/-- Bytes written at increasing addresses from a (R77). -/
def State.writeBlock (s : State) (a : Nat) : List Byte → State
  | [] => s
  | b :: bs => (s.writeByte a b).writeBlock (a + 1) bs

/-- `CheckRead(a, n)`: the fault a read of n bytes at a raises, with its info (R73). One byte is `MemRead`'s check (R70). -/
def checkRead (a n : Nat) : Option (Fault × Nat) :=
  if 0 < n ∧ 0xFFF < a + n - 1 then some (.readRange, max a 0x1000) else none

/-- `CheckWrite(a, n)`: the fault a write of n bytes at a raises, with its info (R73). One byte is `MemWrite`'s check (R72). -/
def checkWrite (a n : Nat) : Option (Fault × Nat) :=
  if 0 < n ∧ 0xFFF < a + n - 1 then some (.writeRange, max a 0x1000)
  else if 0 < n ∧ a < 0x200 then some (.reservedWrite, a)
  else none

/-! ### Taking a fault (R305) -/

/-- `raise Fault(code, info)`: the one way a fault is taken. Nothing of the state changes but `fault`, so the tick and the
post-fetch PC are kept and no write of the instruction has happened. There is no trap entry (R308) and no return from one: only
`State.load` clears the field (R309). -/
def State.raise (s : State) (code : Fault) (pc : Word) (opcode : Option Word) (info : Option Nat) : State :=
  { s with fault := some { code := code, pc := pc, opcode := opcode, info := info } }

/-- A fault raised by the execute step of `ins`: its address is the post-fetch PC less 2 and its word is `encode ins`, which
is the fetched word of every instruction that raises a fault (log entry 5). -/
def State.raiseIn (s : State) (ins : Instr) (code : Fault) (info : Option Nat) : State :=
  s.raise code (s.pc - 2) (some (encode ins)) info

/-- An instruction whose accesses have been checked: the fault if the check found one, else its effect (R73). -/
def State.checked (s : State) (ins : Instr) (bad : Option (Fault × Nat)) (effect : State) : State :=
  match bad with
  | some (code, a) => s.raiseIn ins code (some a)
  | none => effect

/-! ### The call stack (R30) -/

/-- `Push` finds the stack full: STACK_LIMIT is n and there are n entries. -/
def State.stackFull (s : State) : Option Nat :=
  match s.cfg.stackLimit with
  | some n => if s.stack.length = n then some n else none
  | none => none

/-- The stack with one more entry on top. -/
def State.push (s : State) (a : Word) : State := s.setStack (s.stack ++ [a])

/-- The stack without its top entry. -/
def State.dropTop (s : State) : State := s.setStack s.stack.dropLast

/-! ### The timers and the inputs of a cycle (R121, R122) -/

/-- One decrement, saturating at 0 (R31). -/
def countDown (b : Byte) : Byte := if b = 0x00#8 then 0x00#8 else b - 1

/-- Step 1 of the cycle: if TICK, both timers count down (R122). -/
def State.tickTimers (s : State) : State :=
  { s with dt := if s.tick then countDown s.dt else s.dt, st := if s.tick then countDown s.st else s.st }

/-- The inputs of the next cycle: free values, one pair a cycle (R121; log entry 2). -/
def State.drawInputs (s : State) : State :=
  { s with tick := Config.tickDraw s.draws, rand := Config.randDraw s.draws, draws := s.draws + 1 }

/-! ### Fetch and diagnostics (R104, R123) -/

/-- The word at PC, its first byte the more significant; none where PC is above 0xFFE (R75, R123). -/
def State.fetchWord (s : State) : Option Word :=
  if s.pc.toNat ≤ 0xFFE then some (wordOfBytes (s.readByte s.pc.toNat) (s.readByte (s.pc.toNat + 1))) else none

/-- `report Diag(d)` (R310). -/
def State.report (s : State) (d : Diag) : State := { s with diags := s.diags ++ [d] }

/-- A word stored at an address as the hardware holds it, its more significant byte first (R75). It is no `MemWrite`. -/
def State.placeWord (s : State) (a : Nat) (op : Word) : State :=
  (s.writeByte a (highByte op)).writeByte (a + 1) (lowByte op)

/-- The state that fetches at once: no fault, and PC at an address a fetch may start at (0x200 where PC was above 0xFFE). -/
def State.readyToFetch (s : State) : State :=
  { s with fault := none, pc := if s.pc.toNat ≤ 0xFFE then s.pc else 0x0200#16 }

end Sys2Proof.Machine
end

