-- ==== Sys2Proof/Machine/Operands.lean ====
section
/-! DEFINITION. The operand forms of the instructions beyond a plain register (spec/30_encoding.md R92, R93): the addresses,
the operands a configuration switch selects, the key an instruction tests, and the effective addresses. -/

namespace Sys2Proof.Machine

/-- `zext_16(NNN)` (R92). -/
def zextAddr (nnn : Addr) : Word := nnn.setWidth 16

/-- The source of 8XY6 and 8XYE: VY in the legacy variant, VX in the modern one (R188, R190). -/
def State.shiftSource (s : State) (x y : Reg) : Byte := if s.cfg.shiftSourceVY then s.reg y else s.reg x

/-- The register BNNN adds: VX or V0 (R144). -/
def State.jumpOffset (s : State) (x : Reg) : Byte := if s.cfg.jumpOffsetVX then s.reg x else s.reg 0

/-- BNNN's target, not wrapped to 12 bits (R144): at most 0x10FE, so 16 bits hold it. -/
def State.jumpTarget (s : State) (nnn : Addr) (x : Reg) : Word :=
  BitVec.ofNat 16 (nnn.toNat + (s.jumpOffset x).toNat)

/-- `key[k]`, for k in range (R36). -/
def State.pressed (s : State) (k : Fin 16) : Bool := s.key[k.val]

/-- The lowest-indexed pressed key (R271). -/
def State.lowestKey (s : State) : Option (Fin 16) := (List.finRange 16).find? s.pressed

/-- A key number as a register holds it. -/
def keyByte (k : Fin 16) : Byte := BitVec.ofNat 8 k.val

/-- The address of the glyph of a register's value, not masked to four bits (R224). -/
def glyphAddress (b : Byte) : Word := BitVec.ofNat 16 (0x050 + 5 * b.toNat)

/-- The column DXYN starts at, VX mod 64 (R251). -/
def State.originX (s : State) (x : Reg) : Nat := (s.reg x).toNat % 64

/-- The row DXYN starts at, VY mod 32 (R251). -/
def State.originY (s : State) (y : Reg) : Nat := (s.reg y).toNat % 32

/-- The three decimal digits of a byte, most significant first (R225). -/
def bcdDigits (b : Byte) : List Byte := [b / 100, b / 10 % 10, b % 10]

/-- V0 to VX, in order (R226). -/
def State.regsUpTo (s : State) (x : Reg) : List Byte := s.v.toList.take (x.val + 1)

/-- The registers after V0 to VX are loaded from a on (R227). -/
def State.loadedRegs (s : State) (a : Nat) (x : Reg) : Vector Byte 16 :=
  Vector.ofFn fun k : Fin 16 => if k ≤ x then s.readByte (a + k.val) else s.reg k

end Sys2Proof.Machine
end

