-- ==== Sys2Proof/Machine/ControlFlow.lean ====
section
/-! DEFINITION. SYS, RET, JP, CALL and JP V0 (spec/41_control_flow.md). Every meaning of this folder is the execute step: PC
is the post-fetch value, the instruction's address plus 2 (R124). -/

namespace Sys2Proof.Machine

/-- SYS: no effect, and no diagnostic (R140). -/
def execSys (_nnn : Addr) (s : State) : Result := .next s

/-- RET: the top of the stack into PC; an empty stack is E_STACK_UNDERFLOW (R141, R30). -/
def execRet (s : State) : Result :=
  .next <|
    match s.stack.getLast? with
    | some a => s.dropTop.setPc a
    | none => s.raiseIn .ret .stackUnderflow none

/-- JP addr (R142). -/
def execJp (nnn : Addr) (s : State) : Result := .next (s.setPc (zextAddr nnn))

/-- CALL addr: push the post-fetch PC, then jump; a full stack is E_STACK_OVERFLOW (R143, R30). -/
def execCall (nnn : Addr) (s : State) : Result :=
  .next <|
    match s.stackFull with
    | some n => s.raiseIn (.call nnn) .stackOverflow (some n)
    | none => (s.push s.pc).setPc (zextAddr nnn)

/-- JP V0, addr (R144). -/
def execJpOff (nnn : Addr) (x : Reg) (s : State) : Result := .next (s.setPc (s.jumpTarget nnn x))

end Sys2Proof.Machine
end

