-- ==== Sys2Proof/Machine/Flags.lean ====
section
/-! DEFINITION. The values the instructions write into VF as a flag (spec/10_state.md R28). -/

namespace Sys2Proof.Machine

/-- A flag as the byte VF holds: 1 or 0. -/
def flagByte (b : Bool) : Byte := if b then 0x01#8 else 0x00#8

/-- The carry of 8XY4: the unsigned sum exceeds 255 (R186). -/
def carry (x y : Byte) : Byte := flagByte (decide (255 < x.toNat + y.toNat))

/-- The not-borrow of a - b in 8XY5 and 8XY7: a is strictly greater, unsigned (R187, R189). -/
def notBorrow (a b : Byte) : Byte := flagByte (decide (b.toNat < a.toNat))

/-- The bit 8XY6 shifts out: bit 0 (R188). -/
def shiftedOutRight (src : Byte) : Byte := src &&& 0x01#8

/-- The bit 8XYE shifts out: bit 7 (R190). -/
def shiftedOutLeft (src : Byte) : Byte := (src >>> 7) &&& 0x01#8

/-- The flag of FX1E: the sum before truncation exceeds 0xFFF (R222). -/
def indexOverflow (i : Word) (b : Byte) : Byte := flagByte (decide (0xFFF < i.toNat + b.toNat))

end Sys2Proof.Machine
end

