-- ==== Sys2Proof/Machine/Display.lean ====
section
/-! DEFINITION. CLS and DRW (spec/45_display.md). -/

namespace Sys2Proof.Machine

/-- The display with every cell unlit (R33, R250). -/
def Display.clear : Display := Vector.replicate 64 (Vector.replicate 32 false)

/-- One cell toggled. -/
def Display.toggle (d : Display) (x : Fin 64) (y : Fin 32) : Display :=
  d.set x.val (d[x.val].set y.val (!d[x.val][y.val]))

/-- What a draw has done so far: the display, and whether a lit cell was turned off. -/
structure Canvas where
  disp : Display
  collision : Bool
deriving DecidableEq, Repr

/-- A sprite bit of 1 at column x and row y: the cell is toggled, and turning off a lit one is a collision. Past the right or
bottom edge it is clipped (R251). -/
def Canvas.pixel (c : Canvas) (x y : Nat) : Canvas :=
  if h : x < 64 ∧ y < 32 then
    { disp := c.disp.toggle ⟨x, h.1⟩ ⟨y, h.2⟩, collision := c.collision || c.disp[x][y] }
  else c

/-- The bit of a sprite row that column `col` of it shows: bit 7 is the leftmost (R252). -/
def spriteBit (b : Byte) (col : Nat) : Bool := b.getLsbD (7 - col)

/-- One sprite row: its eight columns from the left, starting at x0 (R251). -/
def Canvas.row (c : Canvas) (x0 y : Nat) (b : Byte) : Canvas :=
  (List.range 8).foldl (fun c col => if spriteBit b col then c.pixel (x0 + col) y else c) c

/-- The sprite's rows, the first on row y0 and each next one below (R253). -/
def Canvas.sprite (c : Canvas) (x0 y0 : Nat) : List Byte → Canvas
  | [] => c
  | b :: bs => (c.row x0 y0 b).sprite x0 (y0 + 1) bs

/-- CLS: every cell unlit, VF untouched (R250). -/
def execCls (s : State) : Result := .next (s.setDisp Display.clear)

/-- DRW Vx, Vy, n: N rows from I drawn by exclusive or at (VX mod 64, VY mod 32), VF the collision, written last (R251). -/
def execDrw (x y : Reg) (n : Count) (s : State) : Result :=
  let c := Canvas.sprite ⟨s.disp, false⟩ (s.originX x) (s.originY y) (s.readBlock s.i.toNat n.val)
  .next (s.checked (.drw x y n) (checkRead s.i.toNat n.val) ((s.setDisp c.disp).setReg VF (flagByte c.collision)))

end Sys2Proof.Machine
end

