-- ==== Sys2Proof/Machine/IndexMemory.lean ====
section
/-! DEFINITION. The index register and the memory blocks (spec/44_index_and_memory.md). A block's addresses are I + k
as unbounded numbers (R71, R221), all checked before any access (R73); I changes in none of the block instructions (R221). -/

namespace Sys2Proof.Machine

/-- LD I, addr (R220). -/
def execLdI (nnn : Addr) (s : State) : Result := .next (s.setI (zextAddr nnn))

/-- ADD I, Vx: mod 2^16, VF the overflow past 0xFFF of the sum before truncation, written last (R222). -/
def execAddI (x : Reg) (s : State) : Result :=
  .next ((s.setI (s.i + (s.reg x).setWidth 16)).setReg VF (indexOverflow s.i (s.reg x)))

/-- LD F, Vx (R224). -/
def execLdF (x : Reg) (s : State) : Result := .next (s.setI (glyphAddress (s.reg x)))

/-- LD B, Vx: the three digits at I, I+1, I+2 (R225). -/
def execLdB (x : Reg) (s : State) : Result :=
  .next (s.checked (.ldB x) (checkWrite s.i.toNat 3) (s.writeBlock s.i.toNat (bcdDigits (s.reg x))))

/-- LD [I], Vx: V0 to VX at I on (R226). -/
def execStRegs (x : Reg) (s : State) : Result :=
  .next (s.checked (.stRegs x) (checkWrite s.i.toNat (x.val + 1)) (s.writeBlock s.i.toNat (s.regsUpTo x)))

/-- LD Vx, [I]: V0 to VX from I on (R227). -/
def execLdRegs (x : Reg) (s : State) : Result :=
  .next (s.checked (.ldRegs x) (checkRead s.i.toNat (x.val + 1)) (s.setRegs (s.loadedRegs s.i.toNat x)))

end Sys2Proof.Machine
end

