-- ==== Sys2Proof/Machine/Skips.lean ====
section
/-! DEFINITION. The conditional skips (spec/42_conditional_skip.md). -/

namespace Sys2Proof.Machine

/-- The common skip: `PC <- PC + 2` on the post-fetch PC if the condition holds (R160). -/
def State.skipIf (s : State) (c : Bool) : State := s.setPc (if c then s.pc + 2 else s.pc)

/-- A skip on the key VX names: E_KEY_INDEX above 0xF, else `c` of its slot decides (R165, R166). -/
def State.skipOnKey (s : State) (ins : Instr) (x : Reg) (c : Bool → Bool) : State :=
  let k := (s.reg x).toNat
  if h : k < 16 then s.skipIf (c (s.pressed ⟨k, h⟩)) else s.raiseIn ins .keyIndex (some k)

/-- SE Vx, byte (R161). -/
def execSeImm (x : Reg) (nn : Byte) (s : State) : Result := .next (s.skipIf (s.reg x == nn))

/-- SNE Vx, byte (R162). -/
def execSneImm (x : Reg) (nn : Byte) (s : State) : Result := .next (s.skipIf (s.reg x != nn))

/-- SE Vx, Vy (R163). -/
def execSeReg (x y : Reg) (s : State) : Result := .next (s.skipIf (s.reg x == s.reg y))

/-- SNE Vx, Vy (R164). -/
def execSneReg (x y : Reg) (s : State) : Result := .next (s.skipIf (s.reg x != s.reg y))

/-- SKP Vx (R165). -/
def execSkp (x : Reg) (s : State) : Result := .next (s.skipOnKey (.skp x) x id)

/-- SKNP Vx (R166). -/
def execSknp (x : Reg) (s : State) : Result := .next (s.skipOnKey (.sknp x) x not)

end Sys2Proof.Machine
end

