-- ==== Sys2Proof/Machine/TimersKeypad.lean ====
section
/-! DEFINITION. The timer instructions and the wait for a key (spec/46_timers_and_keypad.md). -/

namespace Sys2Proof.Machine

/-- LD Vx, DT: the value after this cycle's tick (R270, R130). -/
def execLdFromDT (x : Reg) (s : State) : Result := .next (s.setReg x s.dt)

/-- LD Vx, K: the lowest pressed key into VX, or PC rewound by 2 where none is pressed (R271). -/
def execLdK (x : Reg) (s : State) : Result :=
  .next <|
    match s.lowestKey with
    | some k => s.setReg x (keyByte k)
    | none => s.setPc (s.pc - 2)

/-- LD DT, Vx (R272). -/
def execLdDT (x : Reg) (s : State) : Result := .next (s.setDt (s.reg x))

/-- LD ST, Vx (R273). -/
def execLdST (x : Reg) (s : State) : Result := .next (s.setSt (s.reg x))

end Sys2Proof.Machine
end

