-- ==== Sys2Proof/Machine/Cycle.lean ====
section
/-! DEFINITION. One cycle of the core: timer tick, fetch, decode, dispatch, execute (spec/40_cycle.md R120). -/

namespace Sys2Proof.Machine

/-- The fetch step's advance, `PC <- a + 2`, before the word is interpreted (R124). -/
def State.advancePc (s : State) : State := s.setPc (s.pc + 2)

/-- The execute step of an UNKNOWN word: a diagnostic and nothing else (R104). -/
def execUnknown (op : Word) (s : State) : Result := .next (s.report (.unknownOpcode (s.pc - 2) op))

/-- Steps 3 to 5 on a fetched word, PC already advanced (R125 to R127). -/
def execWord (op : Word) (s : State) : Result :=
  match decode op with
  | .ok ins => exec ins s
  | .error _ => execUnknown op s

/-- Steps 1 to 5 on a running core (R120): the tick, the fetch and its fault, and the fetched word. A fetch fault leaves PC
where it is and has no word (R123). -/
def runCycle (s : State) : Result :=
  let t := s.tickTimers
  match t.fetchWord with
  | none => .next (t.raise .fetchRange t.pc none (some t.pc.toNat))
  | some op => execWord op t.advancePc

/-- The end of a cycle: the inputs of the next one are drawn (log entry 2). -/
def endCycle : Result → Result
  | .next s => .next s.drawInputs
  | .fault r => .fault r
  | .refused r => .refused r

/-- One `cycle` operation. A faulted core changes no state (R128). -/
def cycle (s : State) : Result :=
  match s.fault with
  | some _ => .next s
  | none => endCycle (runCycle s)

end Sys2Proof.Machine
end

