-- ==== Sys2Proof/Machine/Step.lean ====
section
/-! DEFINITION. The step of the machine is one cycle (spec/40_cycle.md R120), and the placing of one instruction where the
next step fetches it. -/

namespace Sys2Proof.Machine

/-- One step: one cycle. -/
def step (s : State) : Host.Outcome State Fault Refusal := cycle s

/-- The state with the instruction word of an opcode-table row at the address the next step fetches from. A faulted core
fetches nothing and a PC above 0xFFE is no fetch address, so the fault is cleared and such a PC becomes 0x200 (log entry 6). -/
def State.withFetchWord (s : State) (nbits w : Nat) : State :=
  s.readyToFetch.placeWord s.readyToFetch.pc.toNat (tableWord nbits w)

end Sys2Proof.Machine
end

