-- ==== Sys2Proof/Machine/Ports.lean ====
section
/-! DEFINITION. The host's operations on the core (spec/10_state.md R45 to R53; spec/70_reset_and_hazards.md R340 to R344).
Each is whole and happens between two cycles (R53). -/

namespace Sys2Proof.Machine

/-- Everything cleared, PC at 0x200, memory back to FONT and zeros; the configuration and the model's other own fields stay
(R340, R341, R342; log entry 6). -/
def State.clear (s : State) : State :=
  { s with
    mem := [], v := Vector.replicate 16 0x00#8, i := 0x0000#16, pc := 0x0200#16, stack := [], dt := 0x00#8, st := 0x00#8,
    disp := Vector.replicate 64 (Vector.replicate 32 false), key := Vector.replicate 16 false, fault := none }

/-- The reset and the ROM's bytes at 0x200 on, for a ROM that was accepted (R340). -/
def State.load (s : State) (rom : List Byte) : State := s.clear.writeBlock 0x200 rom

/-- Why a load failed (R312). -/
inductive LoadError where
  /-- The host could not supply the ROM's bytes. -/
  | unreadable
  /-- The ROM is longer than 3584 bytes. -/
  | tooLarge
deriving DecidableEq, Repr

/-- `reset_and_load(rom)`: the state after it, and the error if there is one; `none` is a ROM the host could not read. On an
error the state is unchanged (R312, R340). -/
def State.resetAndLoad (s : State) (rom : Option (List Byte)) : State × Option LoadError :=
  match rom with
  | none => (s, some .unreadable)
  | some bytes => if 3584 < bytes.length then (s, some .tooLarge) else (s.load bytes, none)

/-- A cell as the host reads it (R35). -/
def pixelWord (lit : Bool) : BitVec 32 := if lit then 0xFFFFFFFF#32 else 0x00000000#32

/-- `read_display`: word y*64 + x is the cell in column x and row y (R48). -/
def State.readDisplay (s : State) : Vector (BitVec 32) 2048 :=
  Vector.ofFn fun k : Fin 2048 => pixelWord (s.cell ⟨k.val % 64, by omega⟩ ⟨k.val / 64, by omega⟩)

/-- `write_key` (R49). -/
def State.writeKey (s : State) (k : Fin 16) (pressed : Bool) : State := s.setKey k pressed

/-- `read_key` (R49). -/
def State.readKey (s : State) (k : Fin 16) : Bool := s.pressed k

/-- `sound_active` (R51). -/
def State.soundActive (s : State) : Bool := s.st != 0x00#8

/-- `read_fault` (R52). -/
def State.readFault (s : State) : Option FaultRecord := s.fault

/-- The number of a fault code (R301). -/
def faultNumber : Fault → Nat
  | .stackUnderflow => 1
  | .stackOverflow => 2
  | .fetchRange => 3
  | .readRange => 4
  | .writeRange => 5
  | .reservedWrite => 6
  | .keyIndex => 7

/-- The inputs TICK and RAND supplied for the next cycle (R121, R344). -/
def State.supply (s : State) (tick : Bool) (rand : Byte) : State := { s with tick := tick, rand := rand }

/-- The outputs of a cycle that took the core from one state to another: the diagnostic it reported and the fault record
(R45, R129). -/
def cycleOutputs (before after : State) : Option Diag × Option FaultRecord :=
  ((after.diags.drop before.diags.length).head?, after.readFault)

/-- What the host may do between two cycles that changes the state (R45, R344). -/
inductive HostOp where
  | resetAndLoad (rom : Option (List Byte))
  | writeKey (k : Fin 16) (pressed : Bool)
  | supply (tick : Bool) (rand : Byte)
deriving DecidableEq, Repr

/-- One host operation (R53). -/
def State.host (s : State) : HostOp → State
  | .resetAndLoad rom => (s.resetAndLoad rom).1
  | .writeKey k pressed => s.writeKey k pressed
  | .supply tick rand => s.supply tick rand

/-! ### The cycle of R120, with its parameters -/

/-- `Cycle(s, TICK, RAND)` of R120 as a function of the record, the configuration a parameter (R7, R20): the record after it, the
diagnostic and the fault record. -/
def recordCycle (cfg : Config) (tick : Bool) (rand : Byte) (r : Record) : Record × Option Diag × Option FaultRecord :=
  let s : State := { toRecord := r, cfg := cfg, tick := tick, rand := rand, draws := 0, diags := [] }
  match cycle s with
  | .next t => (t.toRecord, cycleOutputs s t)
  | .fault _ | .refused _ => (r, none, r.fault)

/-! ### From construction on (R46) -/

/-- A core from its construction on: before its first successful load, or after it. -/
inductive Session where
  /-- Constructed and not yet loaded: the host's operations apply, a cycle does not (R46, R343). -/
  | constructed (s : State)
  /-- Loaded: a core that `step` runs. -/
  | loaded (s : State)
deriving DecidableEq, Repr

/-- `construct(config)`: the record before the first load is unspecified but for `fault = none` (R46), so it is any record. The
model's own fields are as log entries 2 and 4 say. -/
def construct (cfg : Config) (unspecified : Record) : Session :=
  .constructed
    { toRecord := { unspecified with fault := none }, cfg := cfg,
      tick := Config.tickDraw 0, rand := Config.randDraw 0, draws := 1, diags := [] }

/-- The state the host's accessors read, before a load too. -/
def Session.state : Session → State
  | .constructed s | .loaded s => s

/-- One host operation: only a load that answers ok makes a constructed core a loaded one (R343). -/
def Session.host : Session → HostOp → Session
  | .loaded s, op => .loaded (s.host op)
  | .constructed s, .resetAndLoad rom =>
    match s.resetAndLoad rom with
    | (t, none) => .loaded t
    | (t, some _) => .constructed t
  | .constructed s, .writeKey k pressed => .constructed (s.host (.writeKey k pressed))
  | .constructed s, .supply tick rand => .constructed (s.host (.supply tick rand))

/-- `cycle`, on a loaded core only: before the first load there is none (R46). -/
def Session.cycle : Session → Option Result
  | .constructed _ => none
  | .loaded s => some (Machine.cycle s)

end Sys2Proof.Machine
end

