-- ==== Sys2Proof/Safety.lean ====
section
/-! DEFINITION. The words the claims are stated in: a safe run, an ended run, the invariants, the frame of an instruction, and
the sprite as a picture. -/

namespace Sys2Proof

/-- The general registers an instruction may write, from the table of R23. -/
def Instr.regWrites : Instr → List Reg
  | .ldImm x _ | .addImm x _ | .ldReg x _ | .orReg x _ | .andReg x _ | .xorReg x _ | .rnd x _ | .ldFromDT x | .ldK x => [x]
  | .addReg x _ | .sub x _ | .shr x _ | .shl x _ => [x, VF]
  | .subn _ y => [y, VF]
  | .drw _ _ _ | .addI _ => [VF]
  | .ldRegs x => (List.finRange 16).filter (· ≤ x)
  | .sys _ | .cls | .ret | .jp _ | .call _ | .seImm _ _ | .sneImm _ _ | .seReg _ _ | .sneReg _ _ | .ldI _ | .jpOff _ _ => []
  | .skp _ | .sknp _ | .ldDT _ | .ldST _ | .ldF _ | .ldB _ | .stRegs _ => []

end Sys2Proof

namespace Sys2Proof.Machine

/-- A safe state: no fault has been taken (R40). -/
def State.running (s : State) : Bool := s.fault.isNone

/-- The instruction the next cycle of a running core executes; none for a fetch fault or an UNKNOWN word. -/
def State.fetched (s : State) : Option Instr :=
  match s.fetchWord with
  | some op => (decode op).toOption
  | none => none

/-- An ended run: no fault, and the next instruction is a jump to its own address (R345). -/
def State.ended (s : State) : Prop := s.fault = none ∧ ∃ nnn, s.fetched = some (.jp nnn) ∧ zextAddr nnn = s.pc

/-! ### Invariants -/

/-- Memory is in its canonical form. -/
def State.memoryCanonical (s : State) : Prop := Memory.wf s.cfg s.mem = true

/-- PC and the return addresses stay where R26 puts them: PC at most 0x10FE, an entry at most 0x1000. -/
def State.pcBounded (s : State) : Prop := s.pc.toNat ≤ 0x10FE ∧ ∀ a ∈ s.stack, a.toNat ≤ 0x1000

/-- The stack holds at most STACK_LIMIT entries (R29, R30). -/
def State.stackWithinLimit (s : State) : Prop := ∀ n, s.cfg.stackLimit = some n → s.stack.length ≤ n

/-! ### Frames -/

/-- What an instruction may change; everything not named here stays. -/
structure Writes where
  regs : List Reg := []
  i : Bool := false
  pc : Bool := false
  stack : Bool := false
  dt : Bool := false
  st : Bool := false
  disp : Bool := false
  /-- The first byte stored to, and how many bytes. -/
  base : Nat := 0
  len : Nat := 0

/-- Only what `w` names differs between the two states: every other register, every byte of memory outside the `len` bytes
at `base`, and every other part of the state is the same. -/
def Frame (w : Writes) (s t : State) : Prop :=
  (∀ r, r ∉ w.regs → t.reg r = s.reg r) ∧
  (∀ a, a < w.base ∨ w.base + w.len ≤ a → t.readByte a = s.readByte a) ∧
  (w.i = false → t.i = s.i) ∧ (w.pc = false → t.pc = s.pc) ∧ (w.stack = false → t.stack = s.stack) ∧
  (w.dt = false → t.dt = s.dt) ∧ (w.st = false → t.st = s.st) ∧ (w.disp = false → t.disp = s.disp) ∧
  t.key = s.key ∧ t.fault = s.fault ∧ t.cfg = s.cfg ∧ t.tick = s.tick ∧ t.rand = s.rand ∧ t.draws = s.draws ∧
  t.diags = s.diags

/-- The state with only a fault record added, at the execute step of an instruction: the record's address is the post-fetch
PC less 2 and its word is the instruction's (R305). -/
def State.faulted (s : State) (code : Fault) (ins : Instr) (info : Option Nat) : State :=
  { s with fault := some { code := code, pc := s.pc - 2, opcode := some (encode ins), info := info } }

/-! ### The sprite as a picture (R251 to R253) -/

/-- The sprite of DXYN covers the cell in column cx and row cy with a bit of 1: byte r of the sprite lies on row y0 + r and
its bit 7 - c on column x0 + c, from the origin (VX mod 64, VY mod 32). -/
def State.spriteCovers (s : State) (x y : Reg) (n : Count) (cx : Fin 64) (cy : Fin 32) : Prop :=
  ∃ r c : Nat, r < n.val ∧ c < 8 ∧ (s.reg x).toNat % 64 + c = cx.val ∧ (s.reg y).toNat % 32 + r = cy.val ∧
    (s.readByte (s.i.toNat + r)).getLsbD (7 - c) = true

/-- All n bytes of the sprite can be read (R73). -/
def State.spriteReadable (s : State) (n : Count) : Prop := n.val = 0 ∨ s.i.toNat + n.val - 1 ≤ 0xFFF

end Sys2Proof.Machine
end

