-- ==== Sys2Proof/Certificates/Slice0/Obligations.lean ====
section
/-! DEFINITION. The statements for the provers. In every statement about `exec`, the state given is the one the execute step
starts from: PC is the post-fetch value (spec/40_cycle.md R124). Where a docstring names a decision D<n> of
spec/92_eei_decisions.md or a log entry, that clause is the spec's or the model's own choice and no rule of the source. -/

open Sys2Proof Sys2Proof.Machine

/-! ### Encoding -/

/-- Words written out from the patterns of 30_encoding.md R95 decode to the instructions they stand for, the two low-nibble
aliases of families 0 and 5 and one UNKNOWN word among them. The patterns are the spec's decision D12. -/
def Obligations.WordsDecodeAsTheTableSays : Prop :=
  decode 0x600A#16 = .ok (.ldImm 0 0x0A#8) ∧ decode 0x8014#16 = .ok (.addReg 0 1) ∧
  decode 0xD125#16 = .ok (.drw 1 2 5) ∧ decode 0x8127#16 = .ok (.subn 1 2) ∧ decode 0x812E#16 = .ok (.shl 1 2) ∧
  decode 0xB234#16 = .ok (.jpOff 0x234#12 2) ∧ decode 0xF333#16 = .ok (.ldB 3) ∧ decode 0xE59E#16 = .ok (.skp 5) ∧
  decode 0x00EE#16 = .ok .ret ∧ decode 0x01E0#16 = .ok (.sys 0x1E0#12) ∧ decode 0x5121#16 = .ok (.seReg 1 2) ∧
  decode 0x8128#16 = .error (.unknown 0x8128#16) ∧ decodeBytes [0x80#8, 0x14#8, 0xFF#8] = .ok (.addReg 0 1, [0xFF#8])

/-- The fields of a word are the slices R91 names. -/
def Obligations.FieldsAreTheNamedSlices : Prop :=
  ∀ op : Word,
    (fieldF op).toNat = op.toNat / 2 ^ 12 ∧ (fieldX op).val = op.toNat / 2 ^ 8 % 16 ∧ (fieldY op).val = op.toNat / 2 ^ 4 % 16 ∧
    (fieldN op).toNat = op.toNat % 16 ∧ (fieldCount op).val = op.toNat % 16 ∧ (fieldNN op).toNat = op.toNat % 256 ∧
    (fieldNNN op).toNat = op.toNat % 4096

/-- Decoding an encoded well-formed instruction gives it back, as a word and as the first two of any bytes (R90 to R96). -/
def Obligations.DecodeEncodeGivesInstructionBack : Prop :=
  ∀ (i : Instr) (rest : List Byte), i.wf = true →
    decode (encode i) = .ok i ∧ decodeBytes (encodeBytes i ++ rest) = .ok (i, rest)

/-- A decoded instruction is well formed and its word is the decoded one, but for the low nibble that families 5 and 9 do not
look at (R98, the spec's decision D11). -/
def Obligations.EncodeDecodeGivesWordBack : Prop :=
  ∀ (op : Word) (i : Instr), decode op = .ok i →
    i.wf = true ∧ encode i = if fieldF op = 5#4 ∨ fieldF op = 9#4 then op &&& 0xFFF0#16 else op

/-- The words that decode to UNKNOWN are those R99 lists (it derives them from R96); each is rejected under its own name. -/
def Obligations.UnknownWordsAreTheListedOnes : Prop :=
  ∀ op : Word, decode op = .error (.unknown op) ↔
    (fieldF op = 8#4 ∧ fieldN op ∈ [0x8#4, 0x9#4, 0xA#4, 0xB#4, 0xC#4, 0xD#4, 0xF#4]) ∨
    (fieldF op = 14#4 ∧ fieldNN op ∉ [0x9E#8, 0xA1#8]) ∨
    (fieldF op = 15#4 ∧
      fieldNN op ∉ [0x07#8, 0x0A#8, 0x15#8, 0x18#8, 0x1E#8, 0x29#8, 0x33#8, 0x55#8, 0x65#8])

/-! ### The cycle -/

/-- On a running core whose two bytes at PC, the first the more significant, decode to an instruction, a step is the timer
tick, PC + 2, the execute step of that instruction, and the drawing of the next cycle's inputs (R120, R123 to R127; the inputs
are log entry 2). PC may be odd. -/
def Obligations.StepRunsTheDecodedInstruction : Prop :=
  ∀ (s : State) (op : Word) (i : Instr), s.fault = none → s.pc.toNat ≤ 0xFFE →
    op.toNat = (s.readByte s.pc.toNat).toNat * 256 + (s.readByte (s.pc.toNat + 1)).toNat → decode op = .ok i →
    ∃ t, exec i { s.tickTimers with pc := s.pc + 2 } = .next t ∧ step s = .next t.drawInputs

/-- The tick: both timers one down, never below 0, if TICK; nothing else changes (R31, R122). -/
def Obligations.TickCountsBothTimersDown : Prop :=
  ∀ s : State,
    s.tickTimers.dt.toNat = (if s.tick then s.dt.toNat - 1 else s.dt.toNat) ∧
    s.tickTimers.st.toNat = (if s.tick then s.st.toNat - 1 else s.st.toNat) ∧
    Frame { dt := true, st := true } s s.tickTimers

/-- A fetch with PC above 0xFFE records E_FETCH_RANGE, with PC as address and info and no word; the tick is kept and PC stays, and
the next cycle's inputs are drawn (R123; the spec's decisions D7 and D20; the drawing of the inputs is the model's choice, log
entry 2). -/
def Obligations.FetchPastMemoryFaults : Prop :=
  ∀ s : State, s.fault = none → 0xFFE < s.pc.toNat →
    step s = .next (State.drawInputs
      { s.tickTimers with
        fault := some { code := .fetchRange, pc := s.pc, opcode := none, info := some s.pc.toNat } })

/-- A step on an UNKNOWN word advances PC by 2, reports the diagnostic with its address and word, and changes nothing else but
the ticked timers and the next inputs (R104; the diagnostic's fields are the spec's decision D28). -/
def Obligations.UnknownWordOnlyReports : Prop :=
  ∀ (s : State) (op : Word), s.fault = none → s.pc.toNat ≤ 0xFFE →
    op.toNat = (s.readByte s.pc.toNat).toNat * 256 + (s.readByte (s.pc.toNat + 1)).toNat →
    decode op = .error (.unknown op) →
    step s = .next (State.drawInputs
      { s.tickTimers with pc := s.pc + 2, diags := s.diags ++ [.unknownOpcode s.pc op] })

/-- A faulted core changes no state, however many cycles it is given, its record can be read, no key or input of the host
clears it, and a successful load does (R128, R309, R341; the spec's decision D20). -/
def Obligations.FaultedCoreStaysUntilLoad : Prop :=
  ∀ (s : State) (r : FaultRecord), s.fault = some r →
    (∀ k, Host.Core.run core k s = .next s) ∧ s.readFault = some r ∧
    (∀ k b, (s.writeKey k b).fault = some r) ∧ (∀ b v, (s.supply b v).fault = some r) ∧
    (∀ rom : List Byte, rom.length ≤ 3584 → (s.resetAndLoad (some rom)).1.fault = none)

/-- Every cycle of every state answers a next state: no instruction and no word is refused, and a fault is a next state too
(R127, R104; R305 as the model reads it in log entry 3). The record it leaves, its diagnostic and its fault record are those of
R120's Cycle, a function of the record, TICK and RAND with the configuration as parameter: nothing else the state holds has a
part in them (R20, R120, R310; log entries 1, 2 and 4). -/
def Obligations.EveryStepAnswersNext : Prop :=
  ∀ s : State, ∃ t, step s = .next t ∧
    (t.toRecord, cycleOutputs s t) = recordCycle s.cfg s.tick s.rand s.toRecord

/-- Over a whole step, a faulting one too, DT is the ticked value unless the instruction is FX15, and ST the ticked value unless
it is FX18 (R122, R274, R307; that a fault keeps the tick is the spec's decision D20). -/
def Obligations.TimersMoveOnlyByTickOrLoad : Prop :=
  ∀ s t : State, s.fault = none → step s = .next t →
    ((∀ x, s.fetched ≠ some (.ldDT x)) → t.dt.toNat = if s.tick then s.dt.toNat - 1 else s.dt.toNat) ∧
    ((∀ x, s.fetched ≠ some (.ldST x)) → t.st.toNat = if s.tick then s.st.toNat - 1 else s.st.toNat)

/-! ### Control flow (41_control_flow.md) -/

/-- SYS has no effect (R140; the spec's decision D10 and general knowledge). -/
def Obligations.SysHasNoEffect : Prop :=
  ∀ (nnn : Addr) (s : State), ∃ t, exec (.sys nnn) s = .next t ∧ Frame {} s t

/-- RET takes the top of the stack, the last entry, into PC as it is; with an empty stack it records E_STACK_UNDERFLOW and
changes nothing else (R141, R30; the record is the spec's decision D20, the halt its D29). -/
def Obligations.ReturnPopsTheStack : Prop :=
  (∀ (s : State) (rest : List Word) (a : Word), s.stack = rest ++ [a] →
    ∃ t, exec .ret s = .next t ∧ t.pc = a ∧ t.stack = rest ∧ Frame { pc := true, stack := true } s t) ∧
  (∀ s : State, s.stack = [] → exec .ret s = .next (s.faulted .stackUnderflow .ret none))

/-- JP loads NNN into PC, any NNN (R142). -/
def Obligations.JumpLoadsTheAddress : Prop :=
  ∀ (nnn : Addr) (s : State), ∃ t, exec (.jp nnn) s = .next t ∧ t.pc.toNat = nnn.toNat ∧ Frame { pc := true } s t

/-- CALL pushes the post-fetch PC on top and jumps; where STACK_LIMIT entries are on the stack it records E_STACK_OVERFLOW and
changes nothing else (R143, R30; the limit and its fault are the spec's decisions D3 and D20). -/
def Obligations.CallPushesTheReturnAddress : Prop :=
  (∀ (nnn : Addr) (s : State), s.cfg.stackLimit ≠ some s.stack.length →
    ∃ t, exec (.call nnn) s = .next t ∧ t.pc.toNat = nnn.toNat ∧ t.stack = s.stack ++ [s.pc] ∧
      Frame { pc := true, stack := true } s t) ∧
  (∀ (nnn : Addr) (s : State), s.cfg.stackLimit = some s.stack.length →
    exec (.call nnn) s = .next (s.faulted .stackOverflow (.call nnn) (some s.stack.length)))

/-- JP V0, addr loads NNN + V0, or NNN + VX under JUMP_OFFSET_VX, not wrapped to 12 bits (R144; no wrap is the spec's decision
D7). -/
def Obligations.OffsetJumpAddsTheRegister : Prop :=
  ∀ (nnn : Addr) (x : Reg) (s : State), ∃ t, exec (.jpOff nnn x) s = .next t ∧
    t.pc.toNat = nnn.toNat + (if s.cfg.jumpOffsetVX then s.reg x else s.reg 0).toNat ∧ Frame { pc := true } s t

/-! ### Skips (42_conditional_skip.md) -/

/-- 3XNN and 4XNN add 2 to the post-fetch PC if VX equals, or differs from, NN, and change nothing else (R161, R162). -/
def Obligations.ImmediateSkipsCompare : Prop :=
  ∀ (x : Reg) (nn : Byte) (s : State),
    (∃ t, exec (.seImm x nn) s = .next t ∧ t.pc = (if s.reg x = nn then s.pc + 2 else s.pc) ∧ Frame { pc := true } s t) ∧
    (∃ t, exec (.sneImm x nn) s = .next t ∧ t.pc = (if s.reg x ≠ nn then s.pc + 2 else s.pc) ∧ Frame { pc := true } s t)

/-- 5XY0 and 9XY0 do so with VX and VY (R163, R164); the words with another low nibble decode to them too (the spec's decision
D11). -/
def Obligations.RegisterSkipsCompare : Prop :=
  (∀ (x y : Reg) (s : State),
    (∃ t, exec (.seReg x y) s = .next t ∧ t.pc = (if s.reg x = s.reg y then s.pc + 2 else s.pc) ∧
      Frame { pc := true } s t) ∧
    (∃ t, exec (.sneReg x y) s = .next t ∧ t.pc = (if s.reg x ≠ s.reg y then s.pc + 2 else s.pc) ∧
      Frame { pc := true } s t)) ∧
  (∀ op : Word, (fieldF op = 5#4 → decode op = .ok (.seReg (fieldX op) (fieldY op))) ∧
    (fieldF op = 9#4 → decode op = .ok (.sneReg (fieldX op) (fieldY op))))

/-- EX9E skips if the key VX names is pressed and EXA1 if it is not; with VX above 0xF both record E_KEY_INDEX with VX and
change nothing else (R165, R166; the fault is the spec's decisions D16 and D20). -/
def Obligations.KeySkipsTestTheKey : Prop :=
  ∀ (x : Reg) (s : State),
    (∀ k : Fin 16, (s.reg x).toNat = k.val →
      (∃ t, exec (.skp x) s = .next t ∧ t.pc = (if s.readKey k then s.pc + 2 else s.pc) ∧ Frame { pc := true } s t) ∧
      (∃ t, exec (.sknp x) s = .next t ∧ t.pc = (if s.readKey k then s.pc else s.pc + 2) ∧ Frame { pc := true } s t)) ∧
    (0xF < (s.reg x).toNat →
      exec (.skp x) s = .next (s.faulted .keyIndex (.skp x) (some (s.reg x).toNat)) ∧
      exec (.sknp x) s = .next (s.faulted .keyIndex (.sknp x) (some (s.reg x).toNat)))

/-! ### Registers and ALU (43_register_alu.md) -/

/-- 6XNN writes NN into VX, VF changing only as that destination (R180). -/
def Obligations.SetWritesTheImmediate : Prop :=
  ∀ (x : Reg) (nn : Byte) (s : State), ∃ t, exec (.ldImm x nn) s = .next t ∧ t.reg x = nn ∧ Frame { regs := [x] } s t

/-- 7XNN adds NN to VX mod 256 and sets no flag (R181). -/
def Obligations.AddImmediateWrapsWithoutFlag : Prop :=
  ∀ (x : Reg) (nn : Byte) (s : State), ∃ t, exec (.addImm x nn) s = .next t ∧
    (t.reg x).toNat = ((s.reg x).toNat + nn.toNat) % 256 ∧ Frame { regs := [x] } s t

/-- 8XY0 to 8XY3 write VY, or VX or / and / exclusive-or VY, into VX and nothing else, VF only as that destination (R182 to
R185). -/
def Obligations.CopyAndLogicWriteOnlyVX : Prop :=
  ∀ (x y : Reg) (s : State),
    (∃ t, exec (.ldReg x y) s = .next t ∧ t.reg x = s.reg y ∧ Frame { regs := [x] } s t) ∧
    (∃ t, exec (.orReg x y) s = .next t ∧ t.reg x = s.reg x ||| s.reg y ∧ Frame { regs := [x] } s t) ∧
    (∃ t, exec (.andReg x y) s = .next t ∧ t.reg x = s.reg x &&& s.reg y ∧ Frame { regs := [x] } s t) ∧
    (∃ t, exec (.xorReg x y) s = .next t ∧ t.reg x = s.reg x ^^^ s.reg y ∧ Frame { regs := [x] } s t)

/-- 8XY4: VX is the sum mod 256, and VF, written last, is 1 iff the sum exceeds 255 (R186; written last is the spec's decision
D5). -/
def Obligations.AddSetsCarry : Prop :=
  ∀ (x y : Reg) (s : State), ∃ t, exec (.addReg x y) s = .next t ∧
    (x ≠ VF → (t.reg x).toNat = ((s.reg x).toNat + (s.reg y).toNat) % 256) ∧
    (t.reg VF).toNat = (if 255 < (s.reg x).toNat + (s.reg y).toNat then 1 else 0) ∧ Frame { regs := [x, VF] } s t

/-- 8XY5 writes VX - VY mod 256 into VX and 8XY7 VY - VX mod 256 into VY; VF, written last, is 1 iff the minuend was strictly
greater (R187, R189, conflict C1; written last is the spec's decision D5). -/
def Obligations.SubtractSetsStrictNotBorrow : Prop :=
  ∀ (x y : Reg) (s : State),
    (∃ t, exec (.sub x y) s = .next t ∧
      (x ≠ VF → ((t.reg x).toNat : Int) = ((s.reg x).toNat - (s.reg y).toNat : Int) % 256) ∧
      (t.reg VF).toNat = (if (s.reg y).toNat < (s.reg x).toNat then 1 else 0) ∧ Frame { regs := [x, VF] } s t) ∧
    (∃ t, exec (.subn x y) s = .next t ∧
      (y ≠ VF → ((t.reg y).toNat : Int) = ((s.reg y).toNat - (s.reg x).toNat : Int) % 256) ∧
      (t.reg VF).toNat = (if (s.reg x).toNat < (s.reg y).toNat then 1 else 0) ∧ Frame { regs := [y, VF] } s t)

/-- 8XY6 and 8XYE shift the source (VY under SHIFT_SOURCE_VY, else VX) by one into VX; VF, written last, is the bit shifted out
(R188, R190; written last is the spec's decision D5). VY is not written unless it is VX or VF. -/
def Obligations.ShiftsMoveTheSelectedSource : Prop :=
  ∀ (x y : Reg) (s : State) (src : Byte), src = (if s.cfg.shiftSourceVY then s.reg y else s.reg x) →
    (∃ t, exec (.shr x y) s = .next t ∧ (x ≠ VF → (t.reg x).toNat = src.toNat / 2) ∧
      (t.reg VF).toNat = src.toNat % 2 ∧ Frame { regs := [x, VF] } s t) ∧
    (∃ t, exec (.shl x y) s = .next t ∧ (x ≠ VF → (t.reg x).toNat = 2 * src.toNat % 256) ∧
      (t.reg VF).toNat = src.toNat / 128 ∧ Frame { regs := [x, VF] } s t)

/-- CXNN writes this cycle's RAND, whatever byte it is, masked by NN (R191; RAND as a free input is the spec's decision D19). -/
def Obligations.RandomIsMasked : Prop :=
  ∀ (x : Reg) (nn : Byte) (s : State), ∃ t, exec (.rnd x nn) s = .next t ∧
    (∀ b : Nat, (t.reg x).getLsbD b = (s.rand.getLsbD b && nn.getLsbD b)) ∧ Frame { regs := [x] } s t

/-! ### Index and memory blocks (44_index_and_memory.md) -/

/-- ANNN loads NNN into I (R220, general knowledge). -/
def Obligations.LoadIndexTakesTheAddress : Prop :=
  ∀ (nnn : Addr) (s : State), ∃ t, exec (.ldI nnn) s = .next t ∧ t.i.toNat = nnn.toNat ∧ Frame { i := true } s t

/-- FX1E adds VX to I mod 2^16, and VF, written last, is 1 iff the sum before truncation exceeds 0xFFF (R222; the spec's
decisions D5 and D21). -/
def Obligations.AddToIndexFlagsOverflow : Prop :=
  ∀ (x : Reg) (s : State), ∃ t, exec (.addI x) s = .next t ∧ t.i.toNat = (s.i.toNat + (s.reg x).toNat) % 65536 ∧
    (t.reg VF).toNat = (if 0xFFF < s.i.toNat + (s.reg x).toNat then 1 else 0) ∧ Frame { regs := [VF], i := true } s t

/-- FX29 loads the glyph address of VX, the whole register's value, into I; after a load, under the premise FONT[50] = 0xF0,
the byte it addresses for the digit A is 0xF0 (R224). -/
def Obligations.FontAddressIsFiveTimesVX : Prop :=
  (∀ (x : Reg) (s : State), ∃ t, exec (.ldF x) s = .next t ∧ t.i.toNat = 0x050 + 5 * (s.reg x).toNat ∧
    Frame { i := true } s t) ∧
  (∀ (s t : State) (rom : List Byte) (x : Reg), s.cfg.fontPremise = true → rom.length ≤ 3584 →
    exec (.ldF x) ((s.resetAndLoad (some rom)).1.setReg x 0x0A#8) = .next t → t.readByte t.i.toNat = 0xF0#8)

/-- FX33 stores the hundreds, tens and units of VX at I, I+1 and I+2 where all three may be written, and else records the
fault and changes nothing else (R225, R73; the faults are the spec's decisions D7, D8 and D20). -/
def Obligations.BcdStoresThreeDigits : Prop :=
  ∀ (x : Reg) (s : State),
    (0x200 ≤ s.i.toNat → s.i.toNat + 2 ≤ 0xFFF →
      ∃ t, exec (.ldB x) s = .next t ∧ (t.readByte s.i.toNat).toNat = (s.reg x).toNat / 100 ∧
        (t.readByte (s.i.toNat + 1)).toNat = (s.reg x).toNat / 10 % 10 ∧
        (t.readByte (s.i.toNat + 2)).toNat = (s.reg x).toNat % 10 ∧ Frame { base := s.i.toNat, len := 3 } s t) ∧
    (s.i.toNat < 0x200 → exec (.ldB x) s = .next (s.faulted .reservedWrite (.ldB x) (some s.i.toNat))) ∧
    (0xFFF < s.i.toNat + 2 →
      exec (.ldB x) s = .next (s.faulted .writeRange (.ldB x) (some (max s.i.toNat 0x1000))))

/-- FX55 stores V0 to VX at I on where all may be written, and else records the fault and changes nothing else (R226, R73; the
faults are the spec's decisions D7, D8 and D20, the unchanged I its D17). -/
def Obligations.BlockStoreCopiesRegisters : Prop :=
  ∀ (x : Reg) (s : State),
    (0x200 ≤ s.i.toNat → s.i.toNat + x.val ≤ 0xFFF →
      ∃ t, exec (.stRegs x) s = .next t ∧ (∀ k : Reg, k ≤ x → t.readByte (s.i.toNat + k.val) = s.reg k) ∧
        Frame { base := s.i.toNat, len := x.val + 1 } s t) ∧
    (s.i.toNat < 0x200 → exec (.stRegs x) s = .next (s.faulted .reservedWrite (.stRegs x) (some s.i.toNat))) ∧
    (0xFFF < s.i.toNat + x.val →
      exec (.stRegs x) s = .next (s.faulted .writeRange (.stRegs x) (some (max s.i.toNat 0x1000))))

/-- FX65 loads V0 to VX from I on where all can be read, and else records the fault and changes nothing else (R227, R73; the
fault is the spec's decisions D7 and D20, the unchanged I its D17). -/
def Obligations.BlockLoadCopiesMemory : Prop :=
  ∀ (x : Reg) (s : State),
    (s.i.toNat + x.val ≤ 0xFFF →
      ∃ t, exec (.ldRegs x) s = .next t ∧ (∀ k : Reg, k ≤ x → t.reg k = s.readByte (s.i.toNat + k.val)) ∧
        Frame { regs := Instr.regWrites (.ldRegs x) } s t ∧ (∀ k : Reg, x < k → t.reg k = s.reg k)) ∧
    (0xFFF < s.i.toNat + x.val →
      exec (.ldRegs x) s = .next (s.faulted .readRange (.ldRegs x) (some (max s.i.toNat 0x1000))))

/-- Bytes that FX55 stored are what a later fetch reads: two neighbouring registers come back as one word, the first the more
significant (R83, R351, R75). -/
def Obligations.StoredBytesAreFetched : Prop :=
  ∀ (x k l : Reg) (s u : State), 0x200 ≤ s.i.toNat → s.i.toNat + x.val ≤ 0xFFF → l.val = k.val + 1 → l ≤ x →
    exec (.stRegs x) s = .next u →
    ∃ op, (u.setPc (s.i + BitVec.ofNat 16 k.val)).fetchWord = some op ∧ op.toNat = (s.reg k).toNat * 256 + (s.reg l).toNat

/-- The block checks are the byte checks at every address of the block, and the fault's info is the lowest failing address
(R70, R72, R73; the faults are the spec's decisions D7, D8 and D20). A block has at most 16 bytes (R77). -/
def Obligations.BlockChecksAreByteChecks : Prop :=
  ∀ a n : Nat, n ≤ 16 →
    (checkRead a n = none ↔ ∀ k < n, a + k ≤ 0xFFF) ∧
    (checkWrite a n = none ↔ ∀ k < n, 0x200 ≤ a + k ∧ a + k ≤ 0xFFF) ∧
    (∀ f b, checkRead a n = some (f, b) → f = .readRange ∧ a ≤ b ∧ b < a + n ∧ 0xFFF < b ∧ ∀ c, a ≤ c → c < b → c ≤ 0xFFF) ∧
    (∀ f b, checkWrite a n = some (f, b) → a ≤ b ∧ b < a + n ∧
      ((f = .writeRange ∧ 0xFFF < b) ∨ (f = .reservedWrite ∧ b < 0x200)) ∧
      ∀ c, a ≤ c → c < b → 0x200 ≤ c ∧ c ≤ 0xFFF)

/-! ### Display (45_display.md) -/

/-- 00E0, and no other word, clears every cell; VF and everything else stay, and the host then reads 2048 zero words (R250). -/
def Obligations.ClearUnlightsEveryCell : Prop :=
  (∀ s : State, ∃ t, exec .cls s = .next t ∧ (∀ x y, t.cell x y = false) ∧ Frame { disp := true } s t ∧
    t.readDisplay = Vector.replicate 2048 0x00000000#32) ∧
  (∀ op : Word, decode op = .ok .cls ↔ op = 0x00E0#16)

/-- DXYN toggles exactly the cells the sprite covers and sets VF to 1 iff one of them was lit; where a sprite byte cannot be
read it records E_READ_RANGE and changes nothing else (R251 to R253; the bit and row order is the spec's decision D14, the
checked clipped rows its D26, the fault its D7 and D20, VF written last its D5). -/
def Obligations.DrawTogglesTheSpritesCells : Prop :=
  ∀ (x y : Reg) (n : Count) (s : State),
    (s.spriteReadable n →
      ∃ t, exec (.drw x y n) s = .next t ∧
        (∀ cx cy, (s.spriteCovers x y n cx cy → t.cell cx cy = !s.cell cx cy) ∧
          (¬ s.spriteCovers x y n cx cy → t.cell cx cy = s.cell cx cy)) ∧
        ((∃ cx cy, s.spriteCovers x y n cx cy ∧ s.cell cx cy = true) → t.reg VF = 1#8) ∧
        ((¬ ∃ cx cy, s.spriteCovers x y n cx cy ∧ s.cell cx cy = true) → t.reg VF = 0#8) ∧
        Frame { regs := [VF], disp := true } s t) ∧
    (¬ s.spriteReadable n →
      exec (.drw x y n) s = .next (s.faulted .readRange (.drw x y n) (some (max s.i.toNat 0x1000))))

/-- Two draws of the same sprite at the same place leave the display as it was, and the second sets VF to 1 if the first lit a
cell, where VF is no coordinate register (R254, which derives it from R251; conflict C7). -/
def Obligations.DrawingTwiceRestoresTheDisplay : Prop :=
  ∀ (x y : Reg) (n : Count) (s : State), x ≠ VF → y ≠ VF → s.spriteReadable n →
    ∃ t u, exec (.drw x y n) s = .next t ∧ exec (.drw x y n) t = .next u ∧ (∀ cx cy, u.cell cx cy = s.cell cx cy) ∧
      ((∃ cx cy, s.spriteCovers x y n cx cy ∧ s.cell cx cy = false) → u.reg VF = 1#8)

/-- The host reads cell (x, y) at word y*64 + x, all ones if lit and all zeros if not (R35, R48; the spec's decision D15). -/
def Obligations.DisplayReadoutIsRowMajor : Prop :=
  ∀ (s : State) (x : Fin 64) (y : Fin 32),
    s.readDisplay[y.val * 64 + x.val]? = some (if s.cell x y then 0xFFFFFFFF#32 else 0x00000000#32)

/-! ### Timers and keypad (46_timers_and_keypad.md) -/

/-- FX07 reads DT into VX; over a whole step that is DT after the cycle's own tick (R270). -/
def Obligations.DelayTimerIsReadAfterTheTick : Prop :=
  (∀ (x : Reg) (s : State), ∃ t, exec (.ldFromDT x) s = .next t ∧ t.reg x = s.dt ∧ Frame { regs := [x] } s t) ∧
  (∀ (x : Reg) (s : State), s.fault = none → s.fetched = some (.ldFromDT x) →
    ∃ t, step s = .next t ∧ (t.reg x).toNat = if s.tick then s.dt.toNat - 1 else s.dt.toNat)

/-- FX15 writes VX into DT; over a whole step the value is not yet counted down, whatever TICK is (R272). -/
def Obligations.DelayTimerIsLoadedAfterTheTick : Prop :=
  (∀ (x : Reg) (s : State), ∃ t, exec (.ldDT x) s = .next t ∧ t.dt = s.reg x ∧ Frame { dt := true } s t) ∧
  (∀ (x : Reg) (s : State), s.fault = none → s.fetched = some (.ldDT x) → ∃ t, step s = .next t ∧ t.dt = s.reg x)

/-- FX18 writes VX into ST, over a whole step too, and sound_active is ST ≠ 0 (R273; the output is the spec's decision D24). -/
def Obligations.SoundTimerIsLoaded : Prop :=
  (∀ (x : Reg) (s : State), ∃ t, exec (.ldST x) s = .next t ∧ t.st = s.reg x ∧ Frame { st := true } s t ∧
    (t.soundActive = true ↔ (s.reg x).toNat ≠ 0)) ∧
  (∀ (x : Reg) (s : State), s.fault = none → s.fetched = some (.ldST x) → ∃ t, step s = .next t ∧ t.st = s.reg x)

/-- FX0A takes the lowest pressed key into VX, or rewinds PC by 2 where no key is pressed; a whole step that waits leaves PC at
the instruction and still ticks the timers (R271). -/
def Obligations.WaitForKeyTakesTheLowest : Prop :=
  (∀ (x : Reg) (k : Fin 16) (s : State), s.readKey k = true → (∀ j, j < k → s.readKey j = false) →
    ∃ t, exec (.ldK x) s = .next t ∧ (t.reg x).toNat = k.val ∧ Frame { regs := [x] } s t) ∧
  (∀ (x : Reg) (s : State), (∀ k, s.readKey k = false) →
    ∃ t, exec (.ldK x) s = .next t ∧ t.pc = s.pc - 2 ∧ Frame { pc := true } s t) ∧
  (∀ (x : Reg) (s : State), s.fault = none → s.fetched = some (.ldK x) → (∀ k, s.readKey k = false) →
    ∃ t, step s = .next t ∧ t.pc = s.pc ∧ t.fault = none ∧ (∀ r, t.reg r = s.reg r) ∧
      t.dt.toNat = (if s.tick then s.dt.toNat - 1 else s.dt.toNat) ∧
      t.st.toNat = (if s.tick then s.st.toNat - 1 else s.st.toNat))

/-! ### Whole-machine rules -/

/-- Only the registers that R23's table gives an instruction are written by it. -/
def Obligations.RegisterWritesAreTheTables : Prop :=
  ∀ (i : Instr) (s t : State) (r : Reg), exec i s = .next t → r ∉ Instr.regWrites i → t.reg r = s.reg r

/-- I, the stack, the timers, memory and PC are each changed by the execute step of the listed instructions only; the
configuration and the diagnostics by none (R25, R27, R32, R38, R67). -/
def Obligations.OnlyTheListedInstructionsWrite : Prop :=
  ∀ (i : Instr) (s t : State), exec i s = .next t →
    ((∀ a, i ≠ .ldI a) → (∀ x, i ≠ .addI x) → (∀ x, i ≠ .ldF x) → t.i = s.i) ∧
    (i ≠ .ret → (∀ a, i ≠ .call a) → t.stack = s.stack) ∧
    ((∀ x, i ≠ .ldDT x) → t.dt = s.dt) ∧ ((∀ x, i ≠ .ldST x) → t.st = s.st) ∧
    ((∀ x, i ≠ .ldB x) → (∀ x, i ≠ .stRegs x) → ∀ a, t.readByte a = s.readByte a) ∧
    ((∀ a, i ≠ .jp a) → (∀ a, i ≠ .call a) → i ≠ .ret → (∀ a x, i ≠ .jpOff a x) → (∀ x b, i ≠ .seImm x b) →
      (∀ x b, i ≠ .sneImm x b) → (∀ x y, i ≠ .seReg x y) → (∀ x y, i ≠ .sneReg x y) → (∀ x, i ≠ .skp x) →
      (∀ x, i ≠ .sknp x) → (∀ x, i ≠ .ldK x) → t.pc = s.pc) ∧
    t.cfg = s.cfg ∧ t.diags = s.diags

/-- No instruction and no step writes the keypad, the host writes one slot at a time, a load releases every key, and the
execute step of every instruction but EX9E, EXA1 and FX0A does not depend on it (R36, R49). -/
def Obligations.KeypadIsTheHostsToWrite : Prop :=
  (∀ (i : Instr) (s t : State), exec i s = .next t → t.key = s.key) ∧
  (∀ s t : State, step s = .next t → t.key = s.key) ∧
  (∀ (s : State) (k j : Fin 16) (b : Bool), (s.writeKey k b).readKey j = if j = k then b else s.readKey j) ∧
  (∀ (s : State) (rom : List Byte) (j : Fin 16), rom.length ≤ 3584 → (s.resetAndLoad (some rom)).1.readKey j = false) ∧
  (∀ (i : Instr) (s t : State) (keys : Vector Bool 16), (∀ x, i ≠ .skp x ∧ i ≠ .sknp x ∧ i ≠ .ldK x) →
    exec i s = .next t → exec i { s with key := keys } = .next { t with key := keys })

/-- The display is written by 00E0, DXYN and a load only, not by the host's keys and inputs, and the execute step of every other
instruction does not depend on it (R33). -/
def Obligations.DisplayIsWrittenByClsAndDrwOnly : Prop :=
  (∀ (i : Instr) (s t : State), i ≠ .cls → (∀ x y n, i ≠ .drw x y n) → exec i s = .next t →
    t.disp = s.disp ∧ ∀ d, exec i { s with disp := d } = .next { t with disp := d }) ∧
  (∀ (s t : State), s.fault = none → step s = .next t → s.fetched ≠ some .cls → (∀ x y n, s.fetched ≠ some (.drw x y n)) →
    t.disp = s.disp) ∧
  (∀ (s : State) (rom : List Byte) (x : Fin 64) (y : Fin 32), rom.length ≤ 3584 →
    (s.resetAndLoad (some rom)).1.cell x y = false) ∧
  (∀ (s : State) (k : Fin 16) (b : Bool), (s.writeKey k b).disp = s.disp) ∧
  (∀ (s : State) (b : Bool) (v : Byte), (s.supply b v).disp = s.disp)

/-- No instruction reads ST: two states that differ in ST only go to states that differ in ST only (R32). -/
def Obligations.SoundTimerIsNeverRead : Prop :=
  ∀ (i : Instr) (s : State) (b : Byte),
    ∃ t u, exec i s = .next t ∧ exec i { s with st := b } = .next u ∧ { u with st := 0#8 } = { t with st := 0#8 }

/-- A fault is precise: an execute step that records one changes nothing else, and the record's address is the post-fetch PC
less 2 and its word the instruction's (R305, R306; the spec's decision D20, the word log entry 5). -/
def Obligations.FaultsArePrecise : Prop :=
  ∀ (i : Instr) (s t : State), exec i s = .next t → t.fault ≠ s.fault →
    ∃ code info, t = s.faulted code i info

/-- Which instruction raises which fault (R301, R306; the codes are the spec's decision D20). -/
def Obligations.EachInstructionRaisesItsOwnFault : Prop :=
  ∀ (i : Instr) (s t : State) (r : FaultRecord), s.fault = none → exec i s = .next t → t.fault = some r →
    (i = .ret ∧ r.code = .stackUnderflow ∧ r.info = none) ∨
    ((∃ a, i = .call a) ∧ r.code = .stackOverflow ∧ r.info = s.cfg.stackLimit) ∨
    (((∃ x y n, i = .drw x y n) ∨ ∃ x, i = .ldRegs x) ∧ r.code = .readRange) ∨
    (((∃ x, i = .ldB x) ∨ ∃ x, i = .stRegs x) ∧ r.code = .writeRange) ∨
    (((∃ x, i = .ldB x) ∨ ∃ x, i = .stRegs x) ∧ r.code = .reservedWrite ∧ r.info = some s.i.toNat) ∨
    (∃ x, (i = .skp x ∨ i = .sknp x) ∧ r.code = .keyIndex ∧ r.info = some (s.reg x).toNat)

/-- A step reports at most one diagnostic, and only for an UNKNOWN word (R129, R310). -/
def Obligations.OnlyUnknownWordsAreReported : Prop :=
  ∀ s t : State, step s = .next t →
    (t.diags = s.diags ∧ (cycleOutputs s t).1 = none) ∨
    (∃ op, s.fetchWord = some op ∧ decode op = .error (.unknown op) ∧ t.diags = s.diags ++ [.unknownOpcode s.pc op] ∧
      (cycleOutputs s t).1 = some (.unknownOpcode s.pc op))

/-- An ended run, at a jump to its own address, stays there: every later step is the same jump and only the timers and the
inputs move (R345; the definition is the spec's decision D30). -/
def Obligations.EndedRunStaysEnded : Prop :=
  ∀ s : State, s.ended → ∃ t, step s = .next t ∧ t.ended ∧ t.pc = s.pc ∧ (∀ r, t.reg r = s.reg r) ∧ t.i = s.i ∧
    t.stack = s.stack ∧ t.disp = s.disp ∧ t.key = s.key ∧ t.cfg = s.cfg ∧ t.diags = s.diags ∧
    ∀ a, t.readByte a = s.readByte a

/-! ### Invariants -/

/-- The source's invariant: no step writes below 0x200 (R62), and the host's keys and inputs do not either. -/
def Obligations.ReservedRegionIsNeverWritten : Prop :=
  (∀ (s t : State) (a : Nat), step s = .next t → a < 0x200 → t.readByte a = s.readByte a) ∧
  (∀ (s : State) (k : Fin 16) (b : Bool) (a : Nat), (s.writeKey k b).readByte a = s.readByte a) ∧
  (∀ (s : State) (b : Bool) (v : Byte) (a : Nat), (s.supply b v).readByte a = s.readByte a)

/-- Memory stays in its canonical form, inside 0x000 to 0xFFF, over every step and every host operation (R60; the form is log
entry 7). -/
def Obligations.MemoryStaysCanonical : Prop :=
  (∀ s t : State, s.memoryCanonical → step s = .next t → t.memoryCanonical) ∧
  (∀ (s : State) (op : HostOp), s.memoryCanonical → (s.host op).memoryCanonical)

/-- PC stays at most 0x10FE and every return address at most 0x1000, so PC never wraps (R26, which derives it from R25). -/
def Obligations.ProgramCounterStaysBounded : Prop :=
  (∀ s t : State, s.pcBounded → step s = .next t → t.pcBounded) ∧
  (∀ (s : State) (op : HostOp), s.pcBounded → (s.host op).pcBounded)

/-- The stack never holds more than STACK_LIMIT entries (R30; the limit is the spec's decision D3). -/
def Obligations.StackStaysWithinItsLimit : Prop :=
  (∀ s t : State, s.stackWithinLimit → step s = .next t → t.stackWithinLimit) ∧
  (∀ (s : State) (op : HostOp), s.stackWithinLimit → (s.host op).stackWithinLimit)

/-- The state right after reset meets the invariants, and it is running. -/
def Obligations.ResetMeetsTheInvariants : Prop :=
  State.reset.memoryCanonical ∧ State.reset.pcBounded ∧ State.reset.stackWithinLimit ∧ State.reset.running = true

/-- No step and no host operation changes the configuration (R7, R37; that it is a field of the state is log entry 1). -/
def Obligations.ConfigurationIsFixed : Prop :=
  (∀ s t : State, step s = .next t → t.cfg = s.cfg) ∧ (∀ (s : State) (op : HostOp), (s.host op).cfg = s.cfg)

/-! ### Reset and load (70_reset_and_hazards.md) -/

/-- A ROM of at most 3584 bytes is loaded: every field at the value of R41, FONT at 0x050, the ROM at 0x200 and zeros elsewhere;
a longer or unreadable one is an error that changes nothing (R340, R312; the spec's decisions D20, D22 and D27). -/
def Obligations.LoadResetsEverything : Prop :=
  (∀ (s : State) (rom : List Byte), rom.length ≤ 3584 →
    ∃ t, s.resetAndLoad (some rom) = (t, none) ∧ (∀ r, t.reg r = 0#8) ∧ t.i = 0#16 ∧ t.pc = 0x200#16 ∧ t.stack = [] ∧
      t.dt = 0#8 ∧ t.st = 0#8 ∧ (∀ x y, t.cell x y = false) ∧ (∀ k, t.readKey k = false) ∧ t.fault = none ∧
      t.cfg = s.cfg ∧
      (∀ k : Fin 80, t.readByte (0x050 + k.val) = s.cfg.font[k.val]) ∧
      (∀ (k : Nat) (h : k < rom.length), t.readByte (0x200 + k) = rom[k]) ∧
      (∀ a, (a < 0x050 ∨ (0x0A0 ≤ a ∧ a < 0x200) ∨ 0x200 + rom.length ≤ a) → t.readByte a = 0#8)) ∧
  (∀ (s : State) (rom : List Byte), 3584 < rom.length → s.resetAndLoad (some rom) = (s, some .tooLarge)) ∧
  (∀ s : State, s.resetAndLoad none = (s, some .unreadable))

/-- `State.reset` is the first `reset_and_load` of an empty ROM on a core as constructed, whatever its unspecified record was
(R41, R46, R341; the spec's decision D27; log entries 1, 2, 4 and 6). Before a load answers ok there is no cycle, whatever else the
host does, and from then on there always is one, a step (R46, R343; log entry 16). -/
def Obligations.ResetIsALoadOfNothing : Prop :=
  (∀ unspecified : Record,
    (construct constructedConfig unspecified).host (.resetAndLoad (some [])) = .loaded State.reset) ∧
  (∀ (cfg : Config) (unspecified : Record),
    (construct cfg unspecified).cycle = none ∧ (construct cfg unspecified).state.fault = none) ∧
  (∀ (c : Session) (op : HostOp), c.cycle = none → (∀ rom, op = .resetAndLoad (some rom) → 3584 < rom.length) →
    (c.host op).cycle = none ∧ (c.host op).state.fault = c.state.fault) ∧
  (∀ (c : Session) (rom : List Byte), rom.length ≤ 3584 →
    (c.host (.resetAndLoad (some rom))).cycle = some (step (c.state.load rom))) ∧
  (∀ (s : State) (op : HostOp), ((Session.loaded s).host op).cycle = some (step (s.host op)))
end

