-- ==== Sys2Proof/Laws/Display.lean ====
section
/-! SUPPORT. What drawing does to one cell and to the collision, said once for a pixel, a row and a sprite. -/

namespace Sys2Proof.Machine

/-- The cell of a display in column x and row y. -/
def Display.at (d : Display) (x : Fin 64) (y : Fin 32) : Bool := d[x.val][y.val]

theorem at_clear (x : Fin 64) (y : Fin 32) : Display.clear.at x y = false := by
  simp [Display.at, Display.clear]

/-- Two displays with the same cells are the same. -/
theorem display_ext {d e : Display} (h : ∀ x y, d.at x y = e.at x y) : d = e := by
  apply Vector.ext; intro x hx
  apply Vector.ext; intro y hy
  exact h ⟨x, hx⟩ ⟨y, hy⟩

theorem at_toggle (d : Display) (x cx : Fin 64) (y cy : Fin 32) :
    (d.toggle x y).at cx cy = if cx = x ∧ cy = y then !d.at cx cy else d.at cx cy := by
  simp only [Display.at, Display.toggle, Vector.getElem_set, Fin.ext_iff]
  by_cases hx : x.val = cx.val
  · by_cases hy : y.val = cy.val
    · simp [hx, hy]
    · simp [hx, hy, Ne.symm hy]
  · have : ¬ cx.val = x.val := fun e => hx e.symm
    simp [hx, this]

/-- The pixel (x, y) is the cell (cx, cy). -/
def hits (x y : Nat) (cx : Fin 64) (cy : Fin 32) : Bool := decide (x = cx.val) && decide (y = cy.val)

theorem at_pixel (c : Canvas) (x y : Nat) (cx : Fin 64) (cy : Fin 32) :
    (c.pixel x y).disp.at cx cy = ((c.disp.at cx cy) ^^ hits x y cx cy) := by
  simp only [Canvas.pixel]
  split
  · rw [at_toggle]; simp only [hits, Fin.ext_iff]
    by_cases hx : x = cx.val
    · by_cases hy : y = cy.val
      · simp [hx, hy]
      · simp [hy, Ne.symm hy]
    · simp [hx, Ne.symm hx]
  · next h =>
    have : hits x y cx cy = false := by
      simp only [hits]; have := cx.isLt; have := cy.isLt
      by_cases hx : x = cx.val <;> by_cases hy : y = cy.val <;> simp [hx, hy]
      omega
    simp [this]

theorem collision_pixel (c : Canvas) (x y : Nat) :
    (c.pixel x y).collision = true ↔
      c.collision = true ∨ ∃ cx cy, hits x y cx cy = true ∧ c.disp.at cx cy = true := by
  simp only [Canvas.pixel]
  split
  · next h =>
    simp only [Bool.or_eq_true, hits, Bool.and_eq_true, decide_eq_true_eq]
    constructor
    · rintro (h' | h')
      · exact .inl h'
      · exact .inr ⟨⟨x, h.1⟩, ⟨y, h.2⟩, ⟨rfl, rfl⟩, h'⟩
    · rintro (h' | ⟨cx, cy, ⟨rfl, rfl⟩, h'⟩)
      · exact .inl h'
      · exact .inr h'
  · next h =>
    constructor
    · exact .inl
    · rintro (h' | ⟨cx, cy, h1, _⟩)
      · exact h'
      · exfalso; simp [hits] at h1; have := cx.isLt; have := cy.isLt; omega

/-- Row `y`'s sprite byte b, its columns below k drawn from x0 on, covers the cell. -/
def rowCovers (x0 y k : Nat) (b : Byte) (cx : Fin 64) (cy : Fin 32) : Bool :=
  decide (x0 ≤ cx.val) && decide (cx.val < x0 + k) && decide (y = cy.val) && spriteBit b (cx.val - x0)

/-- The first k columns of a sprite row. -/
def Canvas.columns (c : Canvas) (x0 y : Nat) (b : Byte) (k : Nat) : Canvas :=
  (List.range k).foldl (fun c col => if spriteBit b col then c.pixel (x0 + col) y else c) c

theorem columns_succ (c : Canvas) (x0 y k : Nat) (b : Byte) :
    c.columns x0 y b (k + 1) =
      if spriteBit b k then (c.columns x0 y b k).pixel (x0 + k) y else c.columns x0 y b k := by
  simp [Canvas.columns, List.range_succ]

theorem rowCovers_succ (x0 y k : Nat) (b : Byte) (cx : Fin 64) (cy : Fin 32) :
    rowCovers x0 y (k + 1) b cx cy = (rowCovers x0 y k b cx cy ^^ (spriteBit b k && hits (x0 + k) y cx cy)) := by
  simp only [rowCovers, hits]
  by_cases h1 : cx.val = x0 + k
  · simp [h1, Bool.and_comm]
  · have e0 : ¬ (x0 + k = cx.val) := by omega
    have e5 : (cx.val < x0 + (k + 1)) ↔ (cx.val < x0 + k) := by omega
    simp [e0, e5]

theorem at_columns (c : Canvas) (x0 y : Nat) (b : Byte) (cx : Fin 64) (cy : Fin 32) : ∀ k,
    (c.columns x0 y b k).disp.at cx cy = ((c.disp.at cx cy) ^^ rowCovers x0 y k b cx cy) := by
  intro k
  induction k with
  | zero =>
    have : rowCovers x0 y 0 b cx cy = false := by simp [rowCovers]
    simp [Canvas.columns, this]
  | succ k ih =>
    rw [columns_succ, rowCovers_succ]
    split
    · next h => rw [at_pixel, ih]; simp [h]
    · next h => rw [ih]; simp [h]

theorem collision_columns (c : Canvas) (x0 y : Nat) (b : Byte) : ∀ k,
    (c.columns x0 y b k).collision = true ↔
      c.collision = true ∨ ∃ cx cy, rowCovers x0 y k b cx cy = true ∧ c.disp.at cx cy = true := by
  intro k
  induction k with
  | zero =>
    simp only [Canvas.columns, List.range_zero, List.foldl_nil]
    constructor
    · exact .inl
    · rintro (h | ⟨cx, cy, h, _⟩)
      · exact h
      · exfalso; simp [rowCovers] at h; omega
  | succ k ih =>
    have fresh : ∀ cx cy, hits (x0 + k) y cx cy = true → rowCovers x0 y k b cx cy = false := by
      intro cx cy h
      simp [hits] at h
      simp [rowCovers]; omega
    rw [columns_succ]
    split
    · next hb =>
      rw [collision_pixel, ih]
      constructor
      · rintro ((h | ⟨cx, cy, h1, h2⟩) | ⟨cx, cy, h1, h2⟩)
        · exact .inl h
        · refine .inr ⟨cx, cy, ?_, h2⟩
          rw [rowCovers_succ, h1]
          by_cases hh : hits (x0 + k) y cx cy = true
          · rw [fresh cx cy hh] at h1; exact absurd h1 (by simp)
          · simp [hh]
        · refine .inr ⟨cx, cy, ?_, ?_⟩
          · rw [rowCovers_succ, fresh cx cy h1]; simp [hb, h1]
          · rw [at_columns, fresh cx cy h1] at h2; simpa using h2
      · rintro (h | ⟨cx, cy, h1, h2⟩)
        · exact .inl (.inl h)
        · rw [rowCovers_succ] at h1
          by_cases hh : hits (x0 + k) y cx cy = true
          · refine .inr ⟨cx, cy, hh, ?_⟩
            rw [at_columns, fresh cx cy hh, h2]; rfl
          · refine .inl (.inr ⟨cx, cy, ?_, h2⟩)
            simpa [hh] using h1
    · next hb =>
      rw [ih]
      simp only [rowCovers_succ, hb, Bool.false_and, Bool.xor_false]

theorem row_eq_columns (c : Canvas) (x0 y : Nat) (b : Byte) : c.row x0 y b = c.columns x0 y b 8 := rfl

/-- The sprite of the given rows, from (x0, y0), covers the cell. -/
def covers (x0 y0 : Nat) (rows : List Byte) (cx : Fin 64) (cy : Fin 32) : Bool :=
  decide (x0 ≤ cx.val) && decide (cx.val < x0 + 8) && decide (y0 ≤ cy.val) &&
    (match rows[cy.val - y0]? with
    | some b => spriteBit b (cx.val - x0)
    | none => false)

theorem covers_nil (x0 y0 : Nat) (cx : Fin 64) (cy : Fin 32) : covers x0 y0 [] cx cy = false := by simp [covers]

/-- The cells of a sprite: bit 7 - c of row r lies on column x0 + c and row y0 + r (R252, R253). -/
theorem covers_iff (x0 y0 : Nat) (rows : List Byte) (cx : Fin 64) (cy : Fin 32) :
    covers x0 y0 rows cx cy = true ↔
      ∃ r c b, rows[r]? = some b ∧ c < 8 ∧ x0 + c = cx.val ∧ y0 + r = cy.val ∧ spriteBit b c = true := by
  simp only [covers, Bool.and_eq_true, decide_eq_true_eq]
  constructor
  · rintro ⟨⟨⟨h1, h2⟩, h3⟩, h4⟩
    split at h4
    · next b hb => exact ⟨_, _, b, hb, by omega, by omega, by omega, h4⟩
    · cases h4
  · rintro ⟨r, c, b, hb, hc, e1, e2, h⟩
    have e3 : cy.val - y0 = r := by omega
    have e4 : cx.val - x0 = c := by omega
    refine ⟨⟨⟨by omega, by omega⟩, by omega⟩, ?_⟩
    rw [e3, e4, hb]; exact h

theorem covers_cons (x0 y0 : Nat) (b : Byte) (bs : List Byte) (cx : Fin 64) (cy : Fin 32) :
    covers x0 y0 (b :: bs) cx cy = (rowCovers x0 y0 8 b cx cy ^^ covers x0 (y0 + 1) bs cx cy) ∧
      (rowCovers x0 y0 8 b cx cy = true → covers x0 (y0 + 1) bs cx cy = false) := by
  simp only [covers, rowCovers]
  by_cases h : y0 = cy.val
  · subst h
    have e : ¬ (cy.val + 1 ≤ cy.val) := by omega
    simp [e]
  · by_cases h2 : y0 + 1 ≤ cy.val
    · have e : cy.val - y0 = (cy.val - (y0 + 1)) + 1 := by omega
      have e2 : y0 ≤ cy.val := by omega
      rw [e]
      simp [h, h2, e2, List.getElem?_cons_succ]
    · have e2 : ¬ y0 ≤ cy.val := by omega
      simp [h, h2, e2]

/-- A cell after a draw: its old value, toggled where the sprite covers it (R251). -/
theorem at_sprite (rows : List Byte) : ∀ (c : Canvas) (x0 y0 : Nat) (cx : Fin 64) (cy : Fin 32),
    (c.sprite x0 y0 rows).disp.at cx cy = ((c.disp.at cx cy) ^^ covers x0 y0 rows cx cy) := by
  induction rows with
  | nil => intro c x0 y0 cx cy; simp [Canvas.sprite, covers_nil]
  | cons b bs ih =>
    intro c x0 y0 cx cy
    simp only [Canvas.sprite]
    rw [ih, row_eq_columns, at_columns, (covers_cons x0 y0 b bs cx cy).1, Bool.xor_assoc]

/-- The collision of a draw: some covered cell was lit (R251). -/
theorem collision_sprite (rows : List Byte) : ∀ (c : Canvas) (x0 y0 : Nat),
    (c.sprite x0 y0 rows).collision = true ↔
      c.collision = true ∨ ∃ cx cy, covers x0 y0 rows cx cy = true ∧ c.disp.at cx cy = true := by
  induction rows with
  | nil => intro c x0 y0; simp [Canvas.sprite, covers_nil]
  | cons b bs ih =>
    intro c x0 y0
    simp only [Canvas.sprite]
    rw [ih, row_eq_columns, collision_columns]
    constructor
    · rintro ((h | ⟨cx, cy, h1, h2⟩) | ⟨cx, cy, h1, h2⟩)
      · exact .inl h
      · refine .inr ⟨cx, cy, ?_, h2⟩
        obtain ⟨e, f⟩ := covers_cons x0 y0 b bs cx cy
        rw [e, h1, f h1]; rfl
      · obtain ⟨e, f⟩ := covers_cons x0 y0 b bs cx cy
        have hr : rowCovers x0 y0 8 b cx cy = false := by
          by_contra hr
          rw [f (by simpa using hr)] at h1; exact absurd h1 (by simp)
        refine .inr ⟨cx, cy, ?_, ?_⟩
        · rw [e, hr, h1]; rfl
        · rw [at_columns, hr] at h2; simpa using h2
    · rintro (h | ⟨cx, cy, h1, h2⟩)
      · exact .inl (.inl h)
      · obtain ⟨e, f⟩ := covers_cons x0 y0 b bs cx cy
        rw [e] at h1
        by_cases hr : rowCovers x0 y0 8 b cx cy = true
        · exact .inl (.inr ⟨cx, cy, hr, h2⟩)
        · refine .inr ⟨cx, cy, by simpa [hr] using h1, ?_⟩
          rw [at_columns]; simpa [hr] using h2

end Sys2Proof.Machine
end

