-- ==== Sys2Proof/Laws/Encoding.lean ====
section
/-! SUPPORT. The fields of a word and the three encoding shapes as numbers, and each field of each shape. -/

namespace Sys2Proof

/-! ### Fields as numbers (R91) -/

theorem fieldF_toNat (op : Word) : (fieldF op).toNat = op.toNat / 4096 := by
  simp [fieldF, Nat.shiftRight_eq_div_pow]; omega

theorem fieldX_val (op : Word) : (fieldX op).val = op.toNat / 256 % 16 := by
  simp [fieldX, Nat.shiftRight_eq_div_pow]

theorem fieldY_val (op : Word) : (fieldY op).val = op.toNat / 16 % 16 := by
  simp [fieldY, Nat.shiftRight_eq_div_pow]

theorem fieldN_toNat (op : Word) : (fieldN op).toNat = op.toNat % 16 := by
  simp [fieldN]

theorem fieldCount_val (op : Word) : (fieldCount op).val = op.toNat % 16 := fieldN_toNat op

theorem fieldNN_toNat (op : Word) : (fieldNN op).toNat = op.toNat % 256 := by
  simp [fieldNN]

theorem fieldNNN_toNat (op : Word) : (fieldNNN op).toNat = op.toNat % 4096 := by
  simp [fieldNNN]

theorem nibble_toNat (k : Fin 16) : (nibble k).toNat = k.val := rfl

/-! ### Shapes as numbers (R93) -/

theorem append_toNat {a b : Nat} (x : BitVec a) (y : BitVec b) : (x ++ y).toNat = x.toNat * 2 ^ b + y.toNat := by
  rw [BitVec.toNat_append, Nat.shiftLeft_eq, Nat.mul_comm, ← Nat.two_pow_add_eq_or_of_lt y.isLt]

theorem encNNN_toNat (f : BitVec 4) (nnn : Addr) : (encNNN f nnn).toNat = f.toNat * 4096 + nnn.toNat := by
  unfold encNNN
  rw [append_toNat]; omega

theorem encXNN_toNat (f : BitVec 4) (x : Reg) (nn : Byte) :
    (encXNN f x nn).toNat = f.toNat * 4096 + x.val * 256 + nn.toNat := by
  unfold encXNN
  rw [append_toNat, append_toNat, nibble_toNat]; omega

theorem encXYN_toNat (f : BitVec 4) (x y : Reg) (n : BitVec 4) :
    (encXYN f x y n).toNat = f.toNat * 4096 + x.val * 256 + y.val * 16 + n.toNat := by
  unfold encXYN
  rw [append_toNat, append_toNat, append_toNat, nibble_toNat, nibble_toNat]; omega

theorem wordOfBytes_toNat (hi lo : Byte) : (wordOfBytes hi lo).toNat = hi.toNat * 256 + lo.toNat := by
  unfold wordOfBytes
  rw [append_toNat]; norm_num

theorem highByte_toNat (op : Word) : (highByte op).toNat = op.toNat / 256 := by
  simp [highByte, Nat.shiftRight_eq_div_pow]; omega

theorem lowByte_toNat (op : Word) : (lowByte op).toNat = op.toNat % 256 := by
  simp [lowByte]

/-- A word is its two bytes in memory order (R75). -/
theorem wordOfBytes_bytes (op : Word) : wordOfBytes (highByte op) (lowByte op) = op := by
  apply BitVec.eq_of_toNat_eq
  rw [wordOfBytes_toNat, highByte_toNat, lowByte_toNat]; omega

/-! ### The fields of each shape -/

@[simp] theorem fieldF_encNNN (f : BitVec 4) (nnn : Addr) : fieldF (encNNN f nnn) = f := by
  apply BitVec.eq_of_toNat_eq; rw [fieldF_toNat, encNNN_toNat]; omega

@[simp] theorem fieldNNN_encNNN (f : BitVec 4) (nnn : Addr) : fieldNNN (encNNN f nnn) = nnn := by
  apply BitVec.eq_of_toNat_eq; rw [fieldNNN_toNat, encNNN_toNat]; omega

theorem fieldX_encNNN (f : BitVec 4) (nnn : Addr) : (fieldX (encNNN f nnn)).val = nnn.toNat / 256 := by
  rw [fieldX_val, encNNN_toNat]; omega

@[simp] theorem fieldF_encXNN (f : BitVec 4) (x : Reg) (nn : Byte) : fieldF (encXNN f x nn) = f := by
  apply BitVec.eq_of_toNat_eq; rw [fieldF_toNat, encXNN_toNat]; omega

@[simp] theorem fieldX_encXNN (f : BitVec 4) (x : Reg) (nn : Byte) : fieldX (encXNN f x nn) = x := by
  apply Fin.ext; rw [fieldX_val, encXNN_toNat]; omega

@[simp] theorem fieldNN_encXNN (f : BitVec 4) (x : Reg) (nn : Byte) : fieldNN (encXNN f x nn) = nn := by
  apply BitVec.eq_of_toNat_eq; rw [fieldNN_toNat, encXNN_toNat]; omega

@[simp] theorem fieldF_encXYN (f : BitVec 4) (x y : Reg) (n : BitVec 4) : fieldF (encXYN f x y n) = f := by
  apply BitVec.eq_of_toNat_eq; rw [fieldF_toNat, encXYN_toNat]; omega

@[simp] theorem fieldX_encXYN (f : BitVec 4) (x y : Reg) (n : BitVec 4) : fieldX (encXYN f x y n) = x := by
  apply Fin.ext; rw [fieldX_val, encXYN_toNat]; omega

@[simp] theorem fieldY_encXYN (f : BitVec 4) (x y : Reg) (n : BitVec 4) : fieldY (encXYN f x y n) = y := by
  apply Fin.ext; rw [fieldY_val, encXYN_toNat]; omega

@[simp] theorem fieldN_encXYN (f : BitVec 4) (x y : Reg) (n : BitVec 4) : fieldN (encXYN f x y n) = n := by
  apply BitVec.eq_of_toNat_eq; rw [fieldN_toNat, encXYN_toNat]; omega

/-- Every rejected word is rejected by its own name. -/
theorem decode_error (op : Word) (r : Reject) (h : decode op = .error r) : r = .unknown op := by
  simp only [decode] at h
  split at h <;> (try contradiction)
  · simp only [decode8] at h
    repeat' (split at h; contradiction)
    exact (Except.error.inj h).symm
  · simp only [decodeE] at h
    repeat' (split at h; contradiction)
    exact (Except.error.inj h).symm
  · simp only [decodeF] at h
    repeat' (split at h; contradiction)
    exact (Except.error.inj h).symm

end Sys2Proof
end

