-- ==== Sys2Proof/Laws/Memory.lean ====
section
/-! SUPPORT. The laws of the memory list: a read after a write, and the canonical form kept by every operation. -/

namespace Sys2Proof.Machine

/-! ### Lookup -/

theorem lookup_erase (a c : Nat) (m : Memory) :
    Memory.lookup c (Memory.erase a m) = if c = a then none else Memory.lookup c m := by
  induction m with
  | nil => simp [Memory.erase, Memory.lookup]
  | cons p m ih =>
    obtain ⟨b, v⟩ := p
    simp only [Memory.erase, Memory.lookup]
    split
    · rw [ih]; grind
    · simp only [Memory.lookup, ih]; grind

theorem lookup_insert (a c : Nat) (v : Byte) (m : Memory) :
    Memory.lookup c (Memory.insert a v m) = if c = a then some v else Memory.lookup c m := by
  induction m with
  | nil => simp only [Memory.insert, Memory.lookup]; grind
  | cons p m ih =>
    obtain ⟨b, w⟩ := p
    simp only [Memory.insert]
    split
    · simp only [Memory.lookup, ih]; grind
    · split <;> simp only [Memory.lookup] <;> grind

/-- A read after a write: the byte written there, and every other address as before (R80). -/
theorem read_write (cfg : Config) (m : Memory) (a c : Nat) (v : Byte) :
    Memory.read cfg (Memory.write cfg m a v) c = if c = a then v else Memory.read cfg m c := by
  simp only [Memory.read, Memory.write]
  split
  · next h => rw [lookup_erase]; split <;> simp_all
  · rw [lookup_insert]; split <;> simp_all

/-! ### The canonical form -/

theorem mem_erase {a : Nat} {c : Host.Cell} {m : Memory} (h : c ∈ Memory.erase a m) : c ∈ m := by
  induction m with
  | nil => exact h
  | cons p m ih =>
    obtain ⟨b, v⟩ := p
    simp only [Memory.erase] at h
    split at h
    · exact .tail _ (ih h)
    · cases h with
      | head => exact .head _
      | tail _ h => exact .tail _ (ih h)

theorem mem_insert {a : Nat} {v : Byte} {c : Host.Cell} {m : Memory} (h : c ∈ Memory.insert a v m) :
    c = (a, v) ∨ c ∈ m := by
  induction m with
  | nil => simpa [Memory.insert] using h
  | cons p m ih =>
    obtain ⟨b, w⟩ := p
    simp only [Memory.insert] at h
    grind

theorem above_iff (a : Nat) (m : Memory) : Memory.above a m = true ↔ ∀ c ∈ m, a < c.1 := by
  simp [Memory.above, List.all_eq_true]

theorem rising_erase (a : Nat) (m : Memory) (h : Memory.rising m = true) : Memory.rising (Memory.erase a m) = true := by
  induction m with
  | nil => rfl
  | cons p m ih =>
    obtain ⟨b, v⟩ := p
    simp only [Memory.rising, Bool.and_eq_true, above_iff] at h
    simp only [Memory.erase]
    split
    · exact ih h.2
    · simp only [Memory.rising, Bool.and_eq_true, above_iff]
      exact ⟨fun c hc => h.1 c (mem_erase hc), ih h.2⟩

theorem rising_insert (a : Nat) (v : Byte) (m : Memory) (h : Memory.rising m = true) :
    Memory.rising (Memory.insert a v m) = true := by
  induction m with
  | nil => rfl
  | cons p m ih =>
    obtain ⟨b, w⟩ := p
    have h' := h
    simp only [Memory.rising, Bool.and_eq_true, above_iff] at h'
    simp only [Memory.insert]
    split
    · simp only [Memory.rising, Bool.and_eq_true, above_iff]
      refine ⟨fun c hc => ?_, ih h'.2⟩
      rcases mem_insert hc with rfl | hc
      · assumption
      · exact h'.1 c hc
    · split
      · subst_vars; simpa only [Memory.rising, Bool.and_eq_true, above_iff] using h'
      · simp only [Memory.rising, Bool.and_eq_true, above_iff]
        refine ⟨?_, h'⟩
        intro c hc
        cases hc with
        | head => omega
        | tail _ hc => have := h'.1 c hc; omega

theorem wf_iff (cfg : Config) (m : Memory) :
    Memory.wf cfg m = true ↔ Memory.rising m = true ∧ ∀ c ∈ m, c.1 ≤ 0xFFF ∧ c.2 ≠ resetByte cfg c.1 := by
  simp [Memory.wf, List.all_eq_true]

/-- The empty list, the memory of reset, is canonical. -/
theorem wf_nil (cfg : Config) : Memory.wf cfg [] = true := rfl

/-- A write inside the array keeps the canonical form. -/
theorem wf_write (cfg : Config) (m : Memory) (a : Nat) (v : Byte) (ha : a ≤ 0xFFF) (h : Memory.wf cfg m = true) :
    Memory.wf cfg (Memory.write cfg m a v) = true := by
  rw [wf_iff] at h ⊢
  simp only [Memory.write]
  split
  · exact ⟨rising_erase a m h.1, fun c hc => h.2 c (mem_erase hc)⟩
  · refine ⟨rising_insert a v m h.1, fun c hc => ?_⟩
    rcases mem_insert hc with rfl | hc
    · exact ⟨ha, by assumption⟩
    · exact h.2 c hc

end Sys2Proof.Machine
end

