-- ==== Sys2Proof/Laws/Operands.lean ====
section
/-! SUPPORT. The operand forms and the flags as numbers. -/

namespace Sys2Proof.Machine

/-- NNN zero-extended (R92). -/
theorem zextAddr_toNat (nnn : Addr) : (zextAddr nnn).toNat = nnn.toNat := by
  simp [zextAddr]; omega

/-- A glyph's address fits 16 bits: at most 0x54B (R224). -/
theorem glyphAddress_toNat (b : Byte) : (glyphAddress b).toNat = 0x050 + 5 * b.toNat := by
  simp only [glyphAddress, BitVec.toNat_ofNat]; have := b.isLt; omega

/-- BNNN's target does not wrap (R144). -/
theorem jumpTarget_toNat (s : State) (nnn : Addr) (x : Reg) :
    (s.jumpTarget nnn x).toNat = nnn.toNat + (s.jumpOffset x).toNat := by
  simp only [State.jumpTarget, BitVec.toNat_ofNat]
  have := nnn.isLt
  have := (s.jumpOffset x).isLt
  omega

theorem keyByte_toNat (k : Fin 16) : (keyByte k).toNat = k.val := by
  simp only [keyByte, BitVec.toNat_ofNat]; omega

/-- The lowest pressed key is pressed, and none below it is (R271). -/
theorem lowestKey_some (s : State) (k : Fin 16) :
    s.lowestKey = some k ↔ s.pressed k = true ∧ ∀ j, j < k → s.pressed j = false := by
  simp only [State.lowestKey, List.find?_eq_some_iff_getElem, List.getElem_finRange]
  constructor
  · rintro ⟨hk, n, hn, rfl, hlow⟩
    refine ⟨hk, fun j hj => ?_⟩
    simpa using hlow j.val hj
  · rintro ⟨hk, hlow⟩
    refine ⟨hk, k.val, by simp, by simp, fun j hj => ?_⟩
    simpa using hlow ⟨j, by omega⟩ hj

theorem lowestKey_none (s : State) : s.lowestKey = none ↔ ∀ k, s.pressed k = false := by
  simp [State.lowestKey, List.find?_eq_none]

theorem regsUpTo_length (s : State) (x : Reg) : (s.regsUpTo x).length = x.val + 1 := by
  simp only [State.regsUpTo, List.length_take, Vector.length_toList]; omega

theorem regsUpTo_getElem (s : State) (x : Reg) (k : Nat) (h : k < (s.regsUpTo x).length) (h' : k < 16) :
    (s.regsUpTo x)[k] = s.reg ⟨k, h'⟩ := by
  simp [State.regsUpTo, State.reg]

/-! ### Flags (R28) -/

theorem carry_toNat (x y : Byte) : (carry x y).toNat = if 255 < x.toNat + y.toNat then 1 else 0 := by
  simp only [carry, flagByte]; by_cases h : 255 < x.toNat + y.toNat <;> simp [h]

theorem notBorrow_toNat (a b : Byte) : (notBorrow a b).toNat = if b.toNat < a.toNat then 1 else 0 := by
  simp only [notBorrow, flagByte]; by_cases h : b.toNat < a.toNat <;> simp [h]

theorem shiftedOutRight_toNat (b : Byte) : (shiftedOutRight b).toNat = b.toNat % 2 := by
  simp [shiftedOutRight, Nat.and_one_is_mod]

theorem shiftedOutLeft_toNat (b : Byte) : (shiftedOutLeft b).toNat = b.toNat / 128 := by
  simp [shiftedOutLeft, Nat.and_one_is_mod, Nat.shiftRight_eq_div_pow]; have := b.isLt; omega

theorem indexOverflow_toNat (i : Word) (b : Byte) :
    (indexOverflow i b).toNat = if 0xFFF < i.toNat + b.toNat then 1 else 0 := by
  simp only [indexOverflow, flagByte]; by_cases h : 0xFFF < i.toNat + b.toNat <;> simp [h]

end Sys2Proof.Machine
end

