-- ==== Sys2Proof/Laws/State.lean ====
section
/-! SUPPORT. One lemma per field of the state per update, each true by unfolding, so that no later proof opens a record
update. -/

namespace Sys2Proof.Machine

variable (s : State)

/-! ### setReg -/

@[simp] theorem setReg_mem (x : Reg) (b : Byte) : (s.setReg x b).mem = s.mem := rfl
@[simp] theorem setReg_v (x : Reg) (b : Byte) : (s.setReg x b).v = s.v.set x.val b := rfl
@[simp] theorem setReg_i (x : Reg) (b : Byte) : (s.setReg x b).i = s.i := rfl
@[simp] theorem setReg_pc (x : Reg) (b : Byte) : (s.setReg x b).pc = s.pc := rfl
@[simp] theorem setReg_stack (x : Reg) (b : Byte) : (s.setReg x b).stack = s.stack := rfl
@[simp] theorem setReg_dt (x : Reg) (b : Byte) : (s.setReg x b).dt = s.dt := rfl
@[simp] theorem setReg_st (x : Reg) (b : Byte) : (s.setReg x b).st = s.st := rfl
@[simp] theorem setReg_disp (x : Reg) (b : Byte) : (s.setReg x b).disp = s.disp := rfl
@[simp] theorem setReg_key (x : Reg) (b : Byte) : (s.setReg x b).key = s.key := rfl
@[simp] theorem setReg_fault (x : Reg) (b : Byte) : (s.setReg x b).fault = s.fault := rfl
@[simp] theorem setReg_cfg (x : Reg) (b : Byte) : (s.setReg x b).cfg = s.cfg := rfl
@[simp] theorem setReg_tick (x : Reg) (b : Byte) : (s.setReg x b).tick = s.tick := rfl
@[simp] theorem setReg_rand (x : Reg) (b : Byte) : (s.setReg x b).rand = s.rand := rfl
@[simp] theorem setReg_draws (x : Reg) (b : Byte) : (s.setReg x b).draws = s.draws := rfl
@[simp] theorem setReg_diags (x : Reg) (b : Byte) : (s.setReg x b).diags = s.diags := rfl

/-! ### setRegs -/

@[simp] theorem setRegs_mem (w : Vector Byte 16) : (s.setRegs w).mem = s.mem := rfl
@[simp] theorem setRegs_v (w : Vector Byte 16) : (s.setRegs w).v = w := rfl
@[simp] theorem setRegs_i (w : Vector Byte 16) : (s.setRegs w).i = s.i := rfl
@[simp] theorem setRegs_pc (w : Vector Byte 16) : (s.setRegs w).pc = s.pc := rfl
@[simp] theorem setRegs_stack (w : Vector Byte 16) : (s.setRegs w).stack = s.stack := rfl
@[simp] theorem setRegs_dt (w : Vector Byte 16) : (s.setRegs w).dt = s.dt := rfl
@[simp] theorem setRegs_st (w : Vector Byte 16) : (s.setRegs w).st = s.st := rfl
@[simp] theorem setRegs_disp (w : Vector Byte 16) : (s.setRegs w).disp = s.disp := rfl
@[simp] theorem setRegs_key (w : Vector Byte 16) : (s.setRegs w).key = s.key := rfl
@[simp] theorem setRegs_fault (w : Vector Byte 16) : (s.setRegs w).fault = s.fault := rfl
@[simp] theorem setRegs_cfg (w : Vector Byte 16) : (s.setRegs w).cfg = s.cfg := rfl
@[simp] theorem setRegs_tick (w : Vector Byte 16) : (s.setRegs w).tick = s.tick := rfl
@[simp] theorem setRegs_rand (w : Vector Byte 16) : (s.setRegs w).rand = s.rand := rfl
@[simp] theorem setRegs_draws (w : Vector Byte 16) : (s.setRegs w).draws = s.draws := rfl
@[simp] theorem setRegs_diags (w : Vector Byte 16) : (s.setRegs w).diags = s.diags := rfl

/-! ### setI -/

@[simp] theorem setI_mem (a : Word) : (s.setI a).mem = s.mem := rfl
@[simp] theorem setI_v (a : Word) : (s.setI a).v = s.v := rfl
@[simp] theorem setI_i (a : Word) : (s.setI a).i = a := rfl
@[simp] theorem setI_pc (a : Word) : (s.setI a).pc = s.pc := rfl
@[simp] theorem setI_stack (a : Word) : (s.setI a).stack = s.stack := rfl
@[simp] theorem setI_dt (a : Word) : (s.setI a).dt = s.dt := rfl
@[simp] theorem setI_st (a : Word) : (s.setI a).st = s.st := rfl
@[simp] theorem setI_disp (a : Word) : (s.setI a).disp = s.disp := rfl
@[simp] theorem setI_key (a : Word) : (s.setI a).key = s.key := rfl
@[simp] theorem setI_fault (a : Word) : (s.setI a).fault = s.fault := rfl
@[simp] theorem setI_cfg (a : Word) : (s.setI a).cfg = s.cfg := rfl
@[simp] theorem setI_tick (a : Word) : (s.setI a).tick = s.tick := rfl
@[simp] theorem setI_rand (a : Word) : (s.setI a).rand = s.rand := rfl
@[simp] theorem setI_draws (a : Word) : (s.setI a).draws = s.draws := rfl
@[simp] theorem setI_diags (a : Word) : (s.setI a).diags = s.diags := rfl

/-! ### setPc -/

@[simp] theorem setPc_mem (a : Word) : (s.setPc a).mem = s.mem := rfl
@[simp] theorem setPc_v (a : Word) : (s.setPc a).v = s.v := rfl
@[simp] theorem setPc_i (a : Word) : (s.setPc a).i = s.i := rfl
@[simp] theorem setPc_pc (a : Word) : (s.setPc a).pc = a := rfl
@[simp] theorem setPc_stack (a : Word) : (s.setPc a).stack = s.stack := rfl
@[simp] theorem setPc_dt (a : Word) : (s.setPc a).dt = s.dt := rfl
@[simp] theorem setPc_st (a : Word) : (s.setPc a).st = s.st := rfl
@[simp] theorem setPc_disp (a : Word) : (s.setPc a).disp = s.disp := rfl
@[simp] theorem setPc_key (a : Word) : (s.setPc a).key = s.key := rfl
@[simp] theorem setPc_fault (a : Word) : (s.setPc a).fault = s.fault := rfl
@[simp] theorem setPc_cfg (a : Word) : (s.setPc a).cfg = s.cfg := rfl
@[simp] theorem setPc_tick (a : Word) : (s.setPc a).tick = s.tick := rfl
@[simp] theorem setPc_rand (a : Word) : (s.setPc a).rand = s.rand := rfl
@[simp] theorem setPc_draws (a : Word) : (s.setPc a).draws = s.draws := rfl
@[simp] theorem setPc_diags (a : Word) : (s.setPc a).diags = s.diags := rfl

/-! ### setStack -/

@[simp] theorem setStack_mem (l : List Word) : (s.setStack l).mem = s.mem := rfl
@[simp] theorem setStack_v (l : List Word) : (s.setStack l).v = s.v := rfl
@[simp] theorem setStack_i (l : List Word) : (s.setStack l).i = s.i := rfl
@[simp] theorem setStack_pc (l : List Word) : (s.setStack l).pc = s.pc := rfl
@[simp] theorem setStack_stack (l : List Word) : (s.setStack l).stack = l := rfl
@[simp] theorem setStack_dt (l : List Word) : (s.setStack l).dt = s.dt := rfl
@[simp] theorem setStack_st (l : List Word) : (s.setStack l).st = s.st := rfl
@[simp] theorem setStack_disp (l : List Word) : (s.setStack l).disp = s.disp := rfl
@[simp] theorem setStack_key (l : List Word) : (s.setStack l).key = s.key := rfl
@[simp] theorem setStack_fault (l : List Word) : (s.setStack l).fault = s.fault := rfl
@[simp] theorem setStack_cfg (l : List Word) : (s.setStack l).cfg = s.cfg := rfl
@[simp] theorem setStack_tick (l : List Word) : (s.setStack l).tick = s.tick := rfl
@[simp] theorem setStack_rand (l : List Word) : (s.setStack l).rand = s.rand := rfl
@[simp] theorem setStack_draws (l : List Word) : (s.setStack l).draws = s.draws := rfl
@[simp] theorem setStack_diags (l : List Word) : (s.setStack l).diags = s.diags := rfl

/-! ### setDt -/

@[simp] theorem setDt_mem (b : Byte) : (s.setDt b).mem = s.mem := rfl
@[simp] theorem setDt_v (b : Byte) : (s.setDt b).v = s.v := rfl
@[simp] theorem setDt_i (b : Byte) : (s.setDt b).i = s.i := rfl
@[simp] theorem setDt_pc (b : Byte) : (s.setDt b).pc = s.pc := rfl
@[simp] theorem setDt_stack (b : Byte) : (s.setDt b).stack = s.stack := rfl
@[simp] theorem setDt_dt (b : Byte) : (s.setDt b).dt = b := rfl
@[simp] theorem setDt_st (b : Byte) : (s.setDt b).st = s.st := rfl
@[simp] theorem setDt_disp (b : Byte) : (s.setDt b).disp = s.disp := rfl
@[simp] theorem setDt_key (b : Byte) : (s.setDt b).key = s.key := rfl
@[simp] theorem setDt_fault (b : Byte) : (s.setDt b).fault = s.fault := rfl
@[simp] theorem setDt_cfg (b : Byte) : (s.setDt b).cfg = s.cfg := rfl
@[simp] theorem setDt_tick (b : Byte) : (s.setDt b).tick = s.tick := rfl
@[simp] theorem setDt_rand (b : Byte) : (s.setDt b).rand = s.rand := rfl
@[simp] theorem setDt_draws (b : Byte) : (s.setDt b).draws = s.draws := rfl
@[simp] theorem setDt_diags (b : Byte) : (s.setDt b).diags = s.diags := rfl

/-! ### setSt -/

@[simp] theorem setSt_mem (b : Byte) : (s.setSt b).mem = s.mem := rfl
@[simp] theorem setSt_v (b : Byte) : (s.setSt b).v = s.v := rfl
@[simp] theorem setSt_i (b : Byte) : (s.setSt b).i = s.i := rfl
@[simp] theorem setSt_pc (b : Byte) : (s.setSt b).pc = s.pc := rfl
@[simp] theorem setSt_stack (b : Byte) : (s.setSt b).stack = s.stack := rfl
@[simp] theorem setSt_dt (b : Byte) : (s.setSt b).dt = s.dt := rfl
@[simp] theorem setSt_st (b : Byte) : (s.setSt b).st = b := rfl
@[simp] theorem setSt_disp (b : Byte) : (s.setSt b).disp = s.disp := rfl
@[simp] theorem setSt_key (b : Byte) : (s.setSt b).key = s.key := rfl
@[simp] theorem setSt_fault (b : Byte) : (s.setSt b).fault = s.fault := rfl
@[simp] theorem setSt_cfg (b : Byte) : (s.setSt b).cfg = s.cfg := rfl
@[simp] theorem setSt_tick (b : Byte) : (s.setSt b).tick = s.tick := rfl
@[simp] theorem setSt_rand (b : Byte) : (s.setSt b).rand = s.rand := rfl
@[simp] theorem setSt_draws (b : Byte) : (s.setSt b).draws = s.draws := rfl
@[simp] theorem setSt_diags (b : Byte) : (s.setSt b).diags = s.diags := rfl

/-! ### setDisp -/

@[simp] theorem setDisp_mem (d : Display) : (s.setDisp d).mem = s.mem := rfl
@[simp] theorem setDisp_v (d : Display) : (s.setDisp d).v = s.v := rfl
@[simp] theorem setDisp_i (d : Display) : (s.setDisp d).i = s.i := rfl
@[simp] theorem setDisp_pc (d : Display) : (s.setDisp d).pc = s.pc := rfl
@[simp] theorem setDisp_stack (d : Display) : (s.setDisp d).stack = s.stack := rfl
@[simp] theorem setDisp_dt (d : Display) : (s.setDisp d).dt = s.dt := rfl
@[simp] theorem setDisp_st (d : Display) : (s.setDisp d).st = s.st := rfl
@[simp] theorem setDisp_disp (d : Display) : (s.setDisp d).disp = d := rfl
@[simp] theorem setDisp_key (d : Display) : (s.setDisp d).key = s.key := rfl
@[simp] theorem setDisp_fault (d : Display) : (s.setDisp d).fault = s.fault := rfl
@[simp] theorem setDisp_cfg (d : Display) : (s.setDisp d).cfg = s.cfg := rfl
@[simp] theorem setDisp_tick (d : Display) : (s.setDisp d).tick = s.tick := rfl
@[simp] theorem setDisp_rand (d : Display) : (s.setDisp d).rand = s.rand := rfl
@[simp] theorem setDisp_draws (d : Display) : (s.setDisp d).draws = s.draws := rfl
@[simp] theorem setDisp_diags (d : Display) : (s.setDisp d).diags = s.diags := rfl

/-! ### setKey -/

@[simp] theorem setKey_mem (k : Fin 16) (b : Bool) : (s.setKey k b).mem = s.mem := rfl
@[simp] theorem setKey_v (k : Fin 16) (b : Bool) : (s.setKey k b).v = s.v := rfl
@[simp] theorem setKey_i (k : Fin 16) (b : Bool) : (s.setKey k b).i = s.i := rfl
@[simp] theorem setKey_pc (k : Fin 16) (b : Bool) : (s.setKey k b).pc = s.pc := rfl
@[simp] theorem setKey_stack (k : Fin 16) (b : Bool) : (s.setKey k b).stack = s.stack := rfl
@[simp] theorem setKey_dt (k : Fin 16) (b : Bool) : (s.setKey k b).dt = s.dt := rfl
@[simp] theorem setKey_st (k : Fin 16) (b : Bool) : (s.setKey k b).st = s.st := rfl
@[simp] theorem setKey_disp (k : Fin 16) (b : Bool) : (s.setKey k b).disp = s.disp := rfl
@[simp] theorem setKey_key (k : Fin 16) (b : Bool) : (s.setKey k b).key = s.key.set k.val b := rfl
@[simp] theorem setKey_fault (k : Fin 16) (b : Bool) : (s.setKey k b).fault = s.fault := rfl
@[simp] theorem setKey_cfg (k : Fin 16) (b : Bool) : (s.setKey k b).cfg = s.cfg := rfl
@[simp] theorem setKey_tick (k : Fin 16) (b : Bool) : (s.setKey k b).tick = s.tick := rfl
@[simp] theorem setKey_rand (k : Fin 16) (b : Bool) : (s.setKey k b).rand = s.rand := rfl
@[simp] theorem setKey_draws (k : Fin 16) (b : Bool) : (s.setKey k b).draws = s.draws := rfl
@[simp] theorem setKey_diags (k : Fin 16) (b : Bool) : (s.setKey k b).diags = s.diags := rfl

/-! ### writeByte -/

@[simp] theorem writeByte_mem (a : Nat) (b : Byte) : (s.writeByte a b).mem = Memory.write s.cfg s.mem a b := rfl
@[simp] theorem writeByte_v (a : Nat) (b : Byte) : (s.writeByte a b).v = s.v := rfl
@[simp] theorem writeByte_i (a : Nat) (b : Byte) : (s.writeByte a b).i = s.i := rfl
@[simp] theorem writeByte_pc (a : Nat) (b : Byte) : (s.writeByte a b).pc = s.pc := rfl
@[simp] theorem writeByte_stack (a : Nat) (b : Byte) : (s.writeByte a b).stack = s.stack := rfl
@[simp] theorem writeByte_dt (a : Nat) (b : Byte) : (s.writeByte a b).dt = s.dt := rfl
@[simp] theorem writeByte_st (a : Nat) (b : Byte) : (s.writeByte a b).st = s.st := rfl
@[simp] theorem writeByte_disp (a : Nat) (b : Byte) : (s.writeByte a b).disp = s.disp := rfl
@[simp] theorem writeByte_key (a : Nat) (b : Byte) : (s.writeByte a b).key = s.key := rfl
@[simp] theorem writeByte_fault (a : Nat) (b : Byte) : (s.writeByte a b).fault = s.fault := rfl
@[simp] theorem writeByte_cfg (a : Nat) (b : Byte) : (s.writeByte a b).cfg = s.cfg := rfl
@[simp] theorem writeByte_tick (a : Nat) (b : Byte) : (s.writeByte a b).tick = s.tick := rfl
@[simp] theorem writeByte_rand (a : Nat) (b : Byte) : (s.writeByte a b).rand = s.rand := rfl
@[simp] theorem writeByte_draws (a : Nat) (b : Byte) : (s.writeByte a b).draws = s.draws := rfl
@[simp] theorem writeByte_diags (a : Nat) (b : Byte) : (s.writeByte a b).diags = s.diags := rfl

/-! ### raise -/

@[simp] theorem raise_mem (c : Fault) (a : Word) (op : Option Word) (n : Option Nat) : (s.raise c a op n).mem = s.mem := rfl
@[simp] theorem raise_v (c : Fault) (a : Word) (op : Option Word) (n : Option Nat) : (s.raise c a op n).v = s.v := rfl
@[simp] theorem raise_i (c : Fault) (a : Word) (op : Option Word) (n : Option Nat) : (s.raise c a op n).i = s.i := rfl
@[simp] theorem raise_pc (c : Fault) (a : Word) (op : Option Word) (n : Option Nat) : (s.raise c a op n).pc = s.pc := rfl
@[simp] theorem raise_stack (c : Fault) (a : Word) (op : Option Word) (n : Option Nat) : (s.raise c a op n).stack = s.stack := rfl
@[simp] theorem raise_dt (c : Fault) (a : Word) (op : Option Word) (n : Option Nat) : (s.raise c a op n).dt = s.dt := rfl
@[simp] theorem raise_st (c : Fault) (a : Word) (op : Option Word) (n : Option Nat) : (s.raise c a op n).st = s.st := rfl
@[simp] theorem raise_disp (c : Fault) (a : Word) (op : Option Word) (n : Option Nat) : (s.raise c a op n).disp = s.disp := rfl
@[simp] theorem raise_key (c : Fault) (a : Word) (op : Option Word) (n : Option Nat) : (s.raise c a op n).key = s.key := rfl
@[simp] theorem raise_fault (c : Fault) (a : Word) (op : Option Word) (n : Option Nat) : (s.raise c a op n).fault = some { code := c, pc := a, opcode := op, info := n } := rfl
@[simp] theorem raise_cfg (c : Fault) (a : Word) (op : Option Word) (n : Option Nat) : (s.raise c a op n).cfg = s.cfg := rfl
@[simp] theorem raise_tick (c : Fault) (a : Word) (op : Option Word) (n : Option Nat) : (s.raise c a op n).tick = s.tick := rfl
@[simp] theorem raise_rand (c : Fault) (a : Word) (op : Option Word) (n : Option Nat) : (s.raise c a op n).rand = s.rand := rfl
@[simp] theorem raise_draws (c : Fault) (a : Word) (op : Option Word) (n : Option Nat) : (s.raise c a op n).draws = s.draws := rfl
@[simp] theorem raise_diags (c : Fault) (a : Word) (op : Option Word) (n : Option Nat) : (s.raise c a op n).diags = s.diags := rfl

/-! ### tickTimers -/

@[simp] theorem tickTimers_mem : (s.tickTimers).mem = s.mem := rfl
@[simp] theorem tickTimers_v : (s.tickTimers).v = s.v := rfl
@[simp] theorem tickTimers_i : (s.tickTimers).i = s.i := rfl
@[simp] theorem tickTimers_pc : (s.tickTimers).pc = s.pc := rfl
@[simp] theorem tickTimers_stack : (s.tickTimers).stack = s.stack := rfl
@[simp] theorem tickTimers_dt : (s.tickTimers).dt = if s.tick then countDown s.dt else s.dt := rfl
@[simp] theorem tickTimers_st : (s.tickTimers).st = if s.tick then countDown s.st else s.st := rfl
@[simp] theorem tickTimers_disp : (s.tickTimers).disp = s.disp := rfl
@[simp] theorem tickTimers_key : (s.tickTimers).key = s.key := rfl
@[simp] theorem tickTimers_fault : (s.tickTimers).fault = s.fault := rfl
@[simp] theorem tickTimers_cfg : (s.tickTimers).cfg = s.cfg := rfl
@[simp] theorem tickTimers_tick : (s.tickTimers).tick = s.tick := rfl
@[simp] theorem tickTimers_rand : (s.tickTimers).rand = s.rand := rfl
@[simp] theorem tickTimers_draws : (s.tickTimers).draws = s.draws := rfl
@[simp] theorem tickTimers_diags : (s.tickTimers).diags = s.diags := rfl

/-! ### drawInputs -/

@[simp] theorem drawInputs_mem : (s.drawInputs).mem = s.mem := rfl
@[simp] theorem drawInputs_v : (s.drawInputs).v = s.v := rfl
@[simp] theorem drawInputs_i : (s.drawInputs).i = s.i := rfl
@[simp] theorem drawInputs_pc : (s.drawInputs).pc = s.pc := rfl
@[simp] theorem drawInputs_stack : (s.drawInputs).stack = s.stack := rfl
@[simp] theorem drawInputs_dt : (s.drawInputs).dt = s.dt := rfl
@[simp] theorem drawInputs_st : (s.drawInputs).st = s.st := rfl
@[simp] theorem drawInputs_disp : (s.drawInputs).disp = s.disp := rfl
@[simp] theorem drawInputs_key : (s.drawInputs).key = s.key := rfl
@[simp] theorem drawInputs_fault : (s.drawInputs).fault = s.fault := rfl
@[simp] theorem drawInputs_cfg : (s.drawInputs).cfg = s.cfg := rfl
@[simp] theorem drawInputs_tick : (s.drawInputs).tick = Config.tickDraw s.draws := rfl
@[simp] theorem drawInputs_rand : (s.drawInputs).rand = Config.randDraw s.draws := rfl
@[simp] theorem drawInputs_draws : (s.drawInputs).draws = s.draws + 1 := rfl
@[simp] theorem drawInputs_diags : (s.drawInputs).diags = s.diags := rfl

/-! ### report -/

@[simp] theorem report_mem (d : Diag) : (s.report d).mem = s.mem := rfl
@[simp] theorem report_v (d : Diag) : (s.report d).v = s.v := rfl
@[simp] theorem report_i (d : Diag) : (s.report d).i = s.i := rfl
@[simp] theorem report_pc (d : Diag) : (s.report d).pc = s.pc := rfl
@[simp] theorem report_stack (d : Diag) : (s.report d).stack = s.stack := rfl
@[simp] theorem report_dt (d : Diag) : (s.report d).dt = s.dt := rfl
@[simp] theorem report_st (d : Diag) : (s.report d).st = s.st := rfl
@[simp] theorem report_disp (d : Diag) : (s.report d).disp = s.disp := rfl
@[simp] theorem report_key (d : Diag) : (s.report d).key = s.key := rfl
@[simp] theorem report_fault (d : Diag) : (s.report d).fault = s.fault := rfl
@[simp] theorem report_cfg (d : Diag) : (s.report d).cfg = s.cfg := rfl
@[simp] theorem report_tick (d : Diag) : (s.report d).tick = s.tick := rfl
@[simp] theorem report_rand (d : Diag) : (s.report d).rand = s.rand := rfl
@[simp] theorem report_draws (d : Diag) : (s.report d).draws = s.draws := rfl
@[simp] theorem report_diags (d : Diag) : (s.report d).diags = s.diags ++ [d] := rfl

/-! ### supply -/

@[simp] theorem supply_mem (b : Bool) (r : Byte) : (s.supply b r).mem = s.mem := rfl
@[simp] theorem supply_v (b : Bool) (r : Byte) : (s.supply b r).v = s.v := rfl
@[simp] theorem supply_i (b : Bool) (r : Byte) : (s.supply b r).i = s.i := rfl
@[simp] theorem supply_pc (b : Bool) (r : Byte) : (s.supply b r).pc = s.pc := rfl
@[simp] theorem supply_stack (b : Bool) (r : Byte) : (s.supply b r).stack = s.stack := rfl
@[simp] theorem supply_dt (b : Bool) (r : Byte) : (s.supply b r).dt = s.dt := rfl
@[simp] theorem supply_st (b : Bool) (r : Byte) : (s.supply b r).st = s.st := rfl
@[simp] theorem supply_disp (b : Bool) (r : Byte) : (s.supply b r).disp = s.disp := rfl
@[simp] theorem supply_key (b : Bool) (r : Byte) : (s.supply b r).key = s.key := rfl
@[simp] theorem supply_fault (b : Bool) (r : Byte) : (s.supply b r).fault = s.fault := rfl
@[simp] theorem supply_cfg (b : Bool) (r : Byte) : (s.supply b r).cfg = s.cfg := rfl
@[simp] theorem supply_tick (b : Bool) (r : Byte) : (s.supply b r).tick = b := rfl
@[simp] theorem supply_rand (b : Bool) (r : Byte) : (s.supply b r).rand = r := rfl
@[simp] theorem supply_draws (b : Bool) (r : Byte) : (s.supply b r).draws = s.draws := rfl
@[simp] theorem supply_diags (b : Bool) (r : Byte) : (s.supply b r).diags = s.diags := rfl

end Sys2Proof.Machine
end

