-- ==== Sys2Proof/Laws/Ops.lean ====
section
/-! SUPPORT. What each shared operation over registers, memory and stack does, said once. -/

namespace Sys2Proof.Machine

variable (s : State)

/-! ### Registers -/

theorem reg_setReg (x r : Reg) (b : Byte) : (s.setReg x b).reg r = if r = x then b else s.reg r := by
  simp only [State.reg, State.setReg, Vector.getElem_set, Fin.ext_iff, eq_comm]

@[simp] theorem reg_setReg_same (x : Reg) (b : Byte) : (s.setReg x b).reg x = b := by simp [reg_setReg]

@[simp] theorem reg_setReg_other (x r : Reg) (b : Byte) (h : r ≠ x) : (s.setReg x b).reg r = s.reg r := by
  simp [reg_setReg, h]

/-- A register reads the same in two states with the same register file. -/
theorem reg_congr {s t : State} (h : t.v = s.v) (r : Reg) : t.reg r = s.reg r := by simp only [State.reg, h]

@[simp] theorem reg_setI (a : Word) (r : Reg) : (s.setI a).reg r = s.reg r := rfl
@[simp] theorem reg_setPc (a : Word) (r : Reg) : (s.setPc a).reg r = s.reg r := rfl
@[simp] theorem reg_setStack (l : List Word) (r : Reg) : (s.setStack l).reg r = s.reg r := rfl
@[simp] theorem reg_setDt (b : Byte) (r : Reg) : (s.setDt b).reg r = s.reg r := rfl
@[simp] theorem reg_setSt (b : Byte) (r : Reg) : (s.setSt b).reg r = s.reg r := rfl
@[simp] theorem reg_setDisp (d : Display) (r : Reg) : (s.setDisp d).reg r = s.reg r := rfl
@[simp] theorem reg_writeByte (a : Nat) (b : Byte) (r : Reg) : (s.writeByte a b).reg r = s.reg r := rfl
@[simp] theorem reg_raise (f : Fault) (p : Word) (o : Option Word) (n : Option Nat) (r : Reg) :
    (s.raise f p o n).reg r = s.reg r := rfl
@[simp] theorem reg_tickTimers (r : Reg) : s.tickTimers.reg r = s.reg r := rfl
@[simp] theorem reg_drawInputs (r : Reg) : s.drawInputs.reg r = s.reg r := rfl

/-- A block load gives V0 to VX their bytes and leaves the others (R227). -/
theorem reg_loadedRegs (a : Nat) (x r : Reg) :
    (s.setRegs (s.loadedRegs a x)).reg r = if r ≤ x then s.readByte (a + r.val) else s.reg r := by
  simp [State.reg, State.setRegs, State.loadedRegs]

/-! ### Memory -/

/-- A byte reads the same in two states with the same memory and configuration. -/
theorem readByte_congr {s t : State} (hm : t.mem = s.mem) (hc : t.cfg = s.cfg) (a : Nat) : t.readByte a = s.readByte a := by
  simp only [State.readByte, hm, hc]

@[simp] theorem readByte_setReg (x : Reg) (b : Byte) (a : Nat) : (s.setReg x b).readByte a = s.readByte a := rfl
@[simp] theorem readByte_setRegs (w : Vector Byte 16) (a : Nat) : (s.setRegs w).readByte a = s.readByte a := rfl
@[simp] theorem readByte_setI (b : Word) (a : Nat) : (s.setI b).readByte a = s.readByte a := rfl
@[simp] theorem readByte_setPc (b : Word) (a : Nat) : (s.setPc b).readByte a = s.readByte a := rfl
@[simp] theorem readByte_setStack (l : List Word) (a : Nat) : (s.setStack l).readByte a = s.readByte a := rfl
@[simp] theorem readByte_setDt (b : Byte) (a : Nat) : (s.setDt b).readByte a = s.readByte a := rfl
@[simp] theorem readByte_setSt (b : Byte) (a : Nat) : (s.setSt b).readByte a = s.readByte a := rfl
@[simp] theorem readByte_setDisp (d : Display) (a : Nat) : (s.setDisp d).readByte a = s.readByte a := rfl
@[simp] theorem readByte_raise (f : Fault) (p : Word) (o : Option Word) (n : Option Nat) (a : Nat) :
    (s.raise f p o n).readByte a = s.readByte a := rfl
@[simp] theorem readByte_tickTimers (a : Nat) : s.tickTimers.readByte a = s.readByte a := rfl
@[simp] theorem readByte_drawInputs (a : Nat) : s.drawInputs.readByte a = s.readByte a := rfl

theorem readByte_writeByte (a c : Nat) (b : Byte) :
    (s.writeByte a b).readByte c = if c = a then b else s.readByte c := read_write s.cfg s.mem a c b

/-- A block write changes the memory and nothing else. -/
theorem writeBlock_eq (bs : List Byte) : ∀ (s : State) (a : Nat), s.writeBlock a bs = { s with mem := (s.writeBlock a bs).mem } := by
  induction bs with
  | nil => intro s a; rfl
  | cons b bs ih => intro s a; simp only [State.writeBlock]; rw [ih]; rfl

/-- A byte after a block write: the block's own inside it, the old one outside (R77). -/
theorem readByte_writeBlock (bs : List Byte) : ∀ (s : State) (a c : Nat),
    (s.writeBlock a bs).readByte c = if h : a ≤ c ∧ c - a < bs.length then bs[c - a] else s.readByte c := by
  induction bs with
  | nil => intro s a c; simp [State.writeBlock]
  | cons b bs ih =>
    intro s a c
    simp only [State.writeBlock, ih, readByte_writeByte, List.length_cons]
    by_cases h1 : c = a
    · subst h1; simp
    · by_cases h2 : a + 1 ≤ c
      · obtain ⟨d, rfl⟩ := Nat.exists_eq_add_of_le h2
        have e1 : a + 1 + d - (a + 1) = d := by omega
        have e2 : a + 1 + d - a = d + 1 := by omega
        have e3 : ¬ (a + 1 + d = a) := by omega
        simp only [e1, e2, e3, List.getElem_cons_succ]
        grind
      · have : ¬ a ≤ c := by omega
        grind

/-- A block write inside the array keeps the canonical form. -/
theorem memoryCanonical_writeBlock (bs : List Byte) : ∀ (s : State) (a : Nat), a + bs.length ≤ 0x1000 →
    Memory.wf s.cfg s.mem = true → Memory.wf (s.writeBlock a bs).cfg (s.writeBlock a bs).mem = true := by
  induction bs with
  | nil => intro s a _ h; exact h
  | cons b bs ih =>
    intro s a ha h
    simp only [List.length_cons] at ha
    exact ih _ _ (by omega) (wf_write s.cfg s.mem a b (by omega) h)

theorem readBlock_length (n : Nat) : ∀ a, (s.readBlock a n).length = n := by
  induction n with
  | zero => intro a; rfl
  | succ n ih => intro a; simp [State.readBlock, ih]

theorem readBlock_getElem (n : Nat) : ∀ (a r : Nat) (h : r < (s.readBlock a n).length),
    (s.readBlock a n)[r] = s.readByte (a + r) := by
  induction n with
  | zero => intro a r h; simp [State.readBlock] at h
  | succ n ih =>
    intro a r h
    cases r with
    | zero => rfl
    | succ r =>
      simp only [State.readBlock, List.getElem_cons_succ, ih]
      congr 1; omega

/-! ### Checks and faults -/

/-- A read check that finds nothing: no byte of the block lies past the array. -/
theorem checkRead_none (a n : Nat) : checkRead a n = none ↔ n = 0 ∨ a + n - 1 ≤ 0xFFF := by
  simp only [checkRead]; split <;> simp <;> omega

/-- A write check that finds nothing: the whole block lies in 0x200 to 0xFFF. -/
theorem checkWrite_none (a n : Nat) : checkWrite a n = none ↔ n = 0 ∨ (0x200 ≤ a ∧ a + n - 1 ≤ 0xFFF) := by
  simp only [checkWrite]; split
  · simp; omega
  · split <;> simp <;> omega

/-- A read of a block that reaches past the array (R73). -/
theorem checkRead_range (a n : Nat) (h : 0 < n) (h' : 0xFFF < a + n - 1) : checkRead a n = some (.readRange, max a 0x1000) := by
  simp only [checkRead]; rw [if_pos ⟨h, h'⟩]

/-- A write of a block that reaches past the array (R73). -/
theorem checkWrite_range (a n : Nat) (h : 0 < n) (h' : 0xFFF < a + n - 1) :
    checkWrite a n = some (.writeRange, max a 0x1000) := by
  simp only [checkWrite]; rw [if_pos ⟨h, h'⟩]

/-- A write of a block that starts in the reserved region and ends inside the array (R62, R73). -/
theorem checkWrite_reserved (a n : Nat) (h : 0 < n) (h' : a < 0x200) (h'' : a + n - 1 ≤ 0xFFF) :
    checkWrite a n = some (.reservedWrite, a) := by
  simp only [checkWrite]; rw [if_neg (by omega), if_pos ⟨h, h'⟩]

@[simp] theorem checked_none (ins : Instr) (e : State) : s.checked ins none e = e := rfl
@[simp] theorem checked_some (ins : Instr) (f : Fault) (a : Nat) (e : State) :
    s.checked ins (some (f, a)) e = s.raiseIn ins f (some a) := rfl

/-- A checked instruction either has its effect or only records a fault. -/
theorem checked_cases (ins : Instr) (bad : Option (Fault × Nat)) (e : State) :
    (bad = none ∧ s.checked ins bad e = e) ∨
    (∃ f a, bad = some (f, a) ∧ s.checked ins bad e = s.raiseIn ins f (some a)) := by
  rcases bad with _ | ⟨f, a⟩
  · exact .inl ⟨rfl, rfl⟩
  · exact .inr ⟨f, a, rfl, rfl⟩

/-! ### The stack -/

/-- The stack is full exactly where STACK_LIMIT is the number of its entries. -/
theorem stackFull_some (n : Nat) : s.stackFull = some n ↔ s.cfg.stackLimit = some n ∧ s.stack.length = n := by
  simp only [State.stackFull]
  split
  · split <;> (simp_all; try omega)
  · simp_all

theorem stackFull_none : s.stackFull = none ↔ s.cfg.stackLimit ≠ some s.stack.length := by
  simp only [State.stackFull]
  split
  · split <;> (simp_all; try omega)
  · simp_all

/-! ### Timers -/

/-- One decrement, saturating at 0 (R31). -/
theorem countDown_toNat (b : Byte) : (countDown b).toNat = b.toNat - 1 := by
  simp only [countDown]
  split
  · subst_vars; rfl
  · have : b.toNat ≠ 0 := by intro h; apply ‹¬ b = 0#8›; apply BitVec.eq_of_toNat_eq; simpa using h
    have := b.isLt
    rw [BitVec.toNat_sub]; simp; omega

/-! ### Fetch -/

theorem fetchWord_some (h : s.pc.toNat ≤ 0xFFE) :
    s.fetchWord = some (wordOfBytes (s.readByte s.pc.toNat) (s.readByte (s.pc.toNat + 1))) := by
  simp only [State.fetchWord, h, if_true]

theorem fetchWord_none (h : 0xFFE < s.pc.toNat) : s.fetchWord = none := by
  simp only [State.fetchWord]; rw [if_neg]; omega

/-- The word just placed at PC is the word fetched. -/
theorem fetchWord_placeWord (op : Word) (h : s.pc.toNat ≤ 0xFFE) : (s.placeWord s.pc.toNat op).fetchWord = some op := by
  rw [fetchWord_some (s.placeWord s.pc.toNat op) h]
  simp only [State.placeWord, readByte_writeByte, writeByte_pc]
  simp [wordOfBytes_bytes]

end Sys2Proof.Machine
end

