-- ==== Sys2Proof/Laws/PerInstr.lean ====
section
/-! SUPPORT. Laws said per instruction. The family TableRow: the word of an instruction lies in its row of the opcode table
(spec/30_encoding.md R95, columns mask and match). -/

namespace Sys2Proof

/-! ### The fixed bits of each encoding shape -/

theorem encNNN_family (f : BitVec 4) (nnn : Addr) : encNNN f nnn &&& 0xF000#16 = encNNN f 0 := by
  unfold encNNN
  apply BitVec.eq_of_getLsbD_eq
  intro k hk
  simp only [BitVec.getLsbD_and, BitVec.getLsbD_append]
  interval_cases k <;> simp

theorem encXNN_family (f : BitVec 4) (x : Reg) (nn : Byte) : encXNN f x nn &&& 0xF000#16 = encXNN f 0 0 := by
  unfold encXNN nibble
  apply BitVec.eq_of_getLsbD_eq
  intro k hk
  simp only [BitVec.getLsbD_and, BitVec.getLsbD_append]
  interval_cases k <;> simp

theorem encXNN_function (f : BitVec 4) (x : Reg) (nn : Byte) : encXNN f x nn &&& 0xF0FF#16 = encXNN f 0 nn := by
  unfold encXNN nibble
  apply BitVec.eq_of_getLsbD_eq
  intro k hk
  simp only [BitVec.getLsbD_and, BitVec.getLsbD_append]
  interval_cases k <;> simp

theorem encXYN_family (f : BitVec 4) (x y : Reg) (n : BitVec 4) : encXYN f x y n &&& 0xF000#16 = encXYN f 0 0 0 := by
  unfold encXYN nibble
  apply BitVec.eq_of_getLsbD_eq
  intro k hk
  simp only [BitVec.getLsbD_and, BitVec.getLsbD_append]
  interval_cases k <;> simp

theorem encXYN_function (f : BitVec 4) (x y : Reg) (n : BitVec 4) : encXYN f x y n &&& 0xF00F#16 = encXYN f 0 0 n := by
  unfold encXYN nibble
  apply BitVec.eq_of_getLsbD_eq
  intro k hk
  simp only [BitVec.getLsbD_and, BitVec.getLsbD_append]
  interval_cases k <;> simp

end Sys2Proof

namespace Sys2Proof.Laws.TableRow

/-- The mask and the match of an instruction's row in spec/opcode_table.json. -/
def row : Instr → Word × Word
  | .sys _ => (0xF000#16, 0x0000#16)
  | .cls => (0xFFFF#16, 0x00E0#16)
  | .ret => (0xFFFF#16, 0x00EE#16)
  | .jp _ => (0xF000#16, 0x1000#16)
  | .call _ => (0xF000#16, 0x2000#16)
  | .seImm _ _ => (0xF000#16, 0x3000#16)
  | .sneImm _ _ => (0xF000#16, 0x4000#16)
  | .seReg _ _ => (0xF000#16, 0x5000#16)
  | .ldImm _ _ => (0xF000#16, 0x6000#16)
  | .addImm _ _ => (0xF000#16, 0x7000#16)
  | .ldReg _ _ => (0xF00F#16, 0x8000#16)
  | .orReg _ _ => (0xF00F#16, 0x8001#16)
  | .andReg _ _ => (0xF00F#16, 0x8002#16)
  | .xorReg _ _ => (0xF00F#16, 0x8003#16)
  | .addReg _ _ => (0xF00F#16, 0x8004#16)
  | .sub _ _ => (0xF00F#16, 0x8005#16)
  | .shr _ _ => (0xF00F#16, 0x8006#16)
  | .subn _ _ => (0xF00F#16, 0x8007#16)
  | .shl _ _ => (0xF00F#16, 0x800E#16)
  | .sneReg _ _ => (0xF000#16, 0x9000#16)
  | .ldI _ => (0xF000#16, 0xA000#16)
  | .jpOff _ _ => (0xF000#16, 0xB000#16)
  | .rnd _ _ => (0xF000#16, 0xC000#16)
  | .drw _ _ _ => (0xF000#16, 0xD000#16)
  | .skp _ => (0xF0FF#16, 0xE09E#16)
  | .sknp _ => (0xF0FF#16, 0xE0A1#16)
  | .ldFromDT _ => (0xF0FF#16, 0xF007#16)
  | .ldK _ => (0xF0FF#16, 0xF00A#16)
  | .ldDT _ => (0xF0FF#16, 0xF015#16)
  | .ldST _ => (0xF0FF#16, 0xF018#16)
  | .addI _ => (0xF0FF#16, 0xF01E#16)
  | .ldF _ => (0xF0FF#16, 0xF029#16)
  | .ldB _ => (0xF0FF#16, 0xF033#16)
  | .stRegs _ => (0xF0FF#16, 0xF055#16)
  | .ldRegs _ => (0xF0FF#16, 0xF065#16)

/-- The instruction's word lies in its row. -/
def Statement (i : Instr) : Prop := encode i &&& (row i).1 = (row i).2

theorem sys (nnn : Addr) : Statement (.sys nnn) := encNNN_family _ _
theorem cls : Statement (.cls) := rfl
theorem ret : Statement (.ret) := rfl
theorem jp (nnn : Addr) : Statement (.jp nnn) := encNNN_family _ _
theorem call (nnn : Addr) : Statement (.call nnn) := encNNN_family _ _
theorem seImm (x : Reg) (nn : Byte) : Statement (.seImm x nn) := encXNN_family _ _ _
theorem sneImm (x : Reg) (nn : Byte) : Statement (.sneImm x nn) := encXNN_family _ _ _
theorem seReg (x y : Reg) : Statement (.seReg x y) := encXYN_family _ _ _ _
theorem ldImm (x : Reg) (nn : Byte) : Statement (.ldImm x nn) := encXNN_family _ _ _
theorem addImm (x : Reg) (nn : Byte) : Statement (.addImm x nn) := encXNN_family _ _ _
theorem ldReg (x y : Reg) : Statement (.ldReg x y) := encXYN_function _ _ _ _
theorem orReg (x y : Reg) : Statement (.orReg x y) := encXYN_function _ _ _ _
theorem andReg (x y : Reg) : Statement (.andReg x y) := encXYN_function _ _ _ _
theorem xorReg (x y : Reg) : Statement (.xorReg x y) := encXYN_function _ _ _ _
theorem addReg (x y : Reg) : Statement (.addReg x y) := encXYN_function _ _ _ _
theorem sub (x y : Reg) : Statement (.sub x y) := encXYN_function _ _ _ _
theorem shr (x y : Reg) : Statement (.shr x y) := encXYN_function _ _ _ _
theorem subn (x y : Reg) : Statement (.subn x y) := encXYN_function _ _ _ _
theorem shl (x y : Reg) : Statement (.shl x y) := encXYN_function _ _ _ _
theorem sneReg (x y : Reg) : Statement (.sneReg x y) := encXYN_family _ _ _ _
theorem ldI (nnn : Addr) : Statement (.ldI nnn) := encNNN_family _ _
theorem jpOff (nnn : Addr) (x : Reg) : Statement (.jpOff nnn x) := encNNN_family _ _
theorem rnd (x : Reg) (nn : Byte) : Statement (.rnd x nn) := encXNN_family _ _ _
theorem drw (x y : Reg) (n : Count) : Statement (.drw x y n) := encXYN_family _ _ _ _
theorem skp (x : Reg) : Statement (.skp x) := encXNN_function _ _ _
theorem sknp (x : Reg) : Statement (.sknp x) := encXNN_function _ _ _
theorem ldFromDT (x : Reg) : Statement (.ldFromDT x) := encXNN_function _ _ _
theorem ldK (x : Reg) : Statement (.ldK x) := encXNN_function _ _ _
theorem ldDT (x : Reg) : Statement (.ldDT x) := encXNN_function _ _ _
theorem ldST (x : Reg) : Statement (.ldST x) := encXNN_function _ _ _
theorem addI (x : Reg) : Statement (.addI x) := encXNN_function _ _ _
theorem ldF (x : Reg) : Statement (.ldF x) := encXNN_function _ _ _
theorem ldB (x : Reg) : Statement (.ldB x) := encXNN_function _ _ _
theorem stRegs (x : Reg) : Statement (.stRegs x) := encXNN_function _ _ _
theorem ldRegs (x : Reg) : Statement (.ldRegs x) := encXNN_function _ _ _

end Sys2Proof.Laws.TableRow
end

