-- ==== Sys2Proof/Laws/Step.lean ====
section
/-! SUPPORT. What the execute step and a whole step can do, said once. -/

namespace Sys2Proof.Machine

/-- The execute step of an instruction always answers a next state. -/
theorem exec_next (i : Instr) (s : State) : ∃ t, exec i s = .next t := by
  cases i <;> exact ⟨_, rfl⟩

/-- The memory after an execute step is the old one, or the old one with a block written that passed `CheckWrite`. -/
theorem exec_memory {i : Instr} {s t : State} (h : exec i s = .next t) :
    t.cfg = s.cfg ∧
      (t.mem = s.mem ∨ ∃ a bs, checkWrite a (List.length bs) = none ∧ t.mem = (s.writeBlock a bs).mem) := by
  have blk : ∀ (ins : Instr) (a n : Nat) (bs : List Byte), bs.length = n →
      (s.checked ins (checkWrite a n) (s.writeBlock a bs)).cfg = s.cfg ∧
        ((s.checked ins (checkWrite a n) (s.writeBlock a bs)).mem = s.mem ∨
          ∃ a' bs', checkWrite a' (List.length bs') = none ∧
            (s.checked ins (checkWrite a n) (s.writeBlock a bs)).mem = (s.writeBlock a' bs').mem) := by
    intro ins a n bs hn
    rcases checked_cases s ins (checkWrite a n) (s.writeBlock a bs) with ⟨hc, e⟩ | ⟨f, b, _, e⟩
    · rw [e]
      exact ⟨by rw [writeBlock_eq], .inr ⟨a, bs, by rw [hn]; exact hc, rfl⟩⟩
    · rw [e]; exact ⟨rfl, .inl rfl⟩
  cases i
  case ldB x =>
    cases h; exact blk _ _ _ _ rfl
  case stRegs x =>
    cases h
    refine blk _ _ _ _ ?_
    simp only [State.regsUpTo, List.length_take, Vector.length_toList]; omega
  case ret => cases h; split <;> exact ⟨rfl, .inl rfl⟩
  case call nnn => cases h; split <;> exact ⟨rfl, .inl rfl⟩
  case ldK x => cases h; split <;> exact ⟨rfl, .inl rfl⟩
  case skp x => cases h; simp only [State.skipOnKey]; split <;> exact ⟨rfl, .inl rfl⟩
  case sknp x => cases h; simp only [State.skipOnKey]; split <;> exact ⟨rfl, .inl rfl⟩
  case drw x y n =>
    cases h
    rcases checked_cases s (.drw x y n) (checkRead s.i.toNat n.val)
      ((s.setDisp (Canvas.sprite ⟨s.disp, false⟩ (s.originX x) (s.originY y) (s.readBlock s.i.toNat n.val)).disp).setReg VF
        (flagByte (Canvas.sprite ⟨s.disp, false⟩ (s.originX x) (s.originY y) (s.readBlock s.i.toNat n.val)).collision))
      with ⟨_, e⟩ | ⟨f, b, _, e⟩
    · rw [e]; exact ⟨rfl, .inl rfl⟩
    · rw [e]; exact ⟨rfl, .inl rfl⟩
  case ldRegs x =>
    cases h
    rcases checked_cases s (.ldRegs x) (checkRead s.i.toNat (x.val + 1)) (s.setRegs (s.loadedRegs s.i.toNat x))
      with ⟨_, e⟩ | ⟨f, b, _, e⟩
    · rw [e]; exact ⟨rfl, .inl rfl⟩
    · rw [e]; exact ⟨rfl, .inl rfl⟩
  all_goals cases h; exact ⟨rfl, .inl rfl⟩

/-- A block write does not look at the model's own counter and events. -/
theorem writeBlock_events (bs : List Byte) : ∀ (s : State) (a n : Nat) (d : List Diag),
    State.writeBlock { s with draws := n, diags := d } a bs = { s.writeBlock a bs with draws := n, diags := d } := by
  induction bs with
  | nil => intros; rfl
  | cons b bs ih => intro s a n d; exact ih (s.writeByte a b) (a + 1) n d

/-- Nor does a block read. -/
theorem readBlock_events (k : Nat) : ∀ (s : State) (a n : Nat) (d : List Diag),
    State.readBlock { s with draws := n, diags := d } a k = s.readBlock a k := by
  induction k with
  | zero => intros; rfl
  | succ k ih => intro s a n d; simp only [State.readBlock, ih]; rfl

/-- The execute step neither reads nor writes the model's own counter and events (R310; log entries 2 and 4). -/
theorem exec_events {i : Instr} {s t : State} (n : Nat) (d : List Diag) (h : exec i s = .next t) :
    exec i { s with draws := n, diags := d } = .next { t with draws := n, diags := d } := by
  cases i
  case ret => cases h; simp only [exec, execRet]; split <;> rfl
  case call nnn =>
    cases h; simp only [exec, execCall]
    rw [show State.stackFull { s with draws := n, diags := d } = s.stackFull from rfl]; split <;> rfl
  case skp x => cases h; by_cases hk : s.v[x.val].toNat < 16 <;>
      simp only [exec, execSkp, State.skipOnKey, State.reg, hk, ↓reduceDIte] <;> rfl
  case sknp x => cases h; by_cases hk : s.v[x.val].toNat < 16 <;>
      simp only [exec, execSknp, State.skipOnKey, State.reg, hk, ↓reduceDIte] <;> rfl
  case ldK x =>
    cases h; simp only [exec, execLdK]
    rw [show State.lowestKey { s with draws := n, diags := d } = s.lowestKey from rfl]; split <;> rfl
  case drw x y k => cases h; simp only [exec, execDrw, readBlock_events]; cases checkRead s.i.toNat k.val <;> rfl
  case ldB x => cases h; simp only [exec, execLdB, writeBlock_events]; cases checkWrite s.i.toNat 3 <;> rfl
  case stRegs x => cases h; simp only [exec, execStRegs, writeBlock_events]; cases checkWrite s.i.toNat (x.val + 1) <;> rfl
  case ldRegs x => cases h; simp only [exec, execLdRegs]; cases checkRead s.i.toNat (x.val + 1) <;> rfl
  all_goals cases h; rfl

/-- The state the execute step of a cycle starts from: after the tick, PC advanced (R120). -/
def State.fetchedState (s : State) : State := s.tickTimers.setPc (s.pc + 2)

/-- What one step can do: nothing on a faulted core (R128), a fetch fault (R123), a diagnostic (R104), or the execute step of
the fetched instruction, each on the ticked state and followed by the draw of the next inputs. -/
theorem step_cases {s t : State} (h : step s = .next t) :
    (s.fault ≠ none ∧ t = s) ∨
    (s.fault = none ∧ 0xFFE < s.pc.toNat ∧
      t = (s.tickTimers.raise .fetchRange s.pc none (some s.pc.toNat)).drawInputs) ∨
    (∃ op r, s.fault = none ∧ s.fetchWord = some op ∧ decode op = .error r ∧
      t = (s.fetchedState.report (.unknownOpcode (s.fetchedState.pc - 2) op)).drawInputs) ∨
    (∃ op i u, s.fault = none ∧ s.fetchWord = some op ∧ decode op = .ok i ∧
      exec i s.fetchedState = .next u ∧ t = u.drawInputs) := by
  have fw : s.tickTimers.fetchWord = s.fetchWord := rfl
  simp only [step, cycle] at h
  split at h
  · next r hf => cases h; exact .inl ⟨by simp [hf], rfl⟩
  · next hf =>
    refine .inr ?_
    simp only [runCycle, fw] at h
    split at h
    · next hw =>
      cases h
      refine .inl ⟨hf, ?_, rfl⟩
      by_contra hp
      rw [fetchWord_some s (by omega)] at hw
      exact absurd hw (by simp)
    · next op hw =>
      refine .inr ?_
      simp only [execWord] at h
      split at h
      · next i hd =>
        obtain ⟨u, hu⟩ := exec_next i s.fetchedState
        have hu' : exec i s.tickTimers.advancePc = .next u := hu
        rw [hu'] at h
        cases h
        exact .inr ⟨op, i, u, hf, hw, hd, hu, rfl⟩
      · next r hd => cases h; exact .inl ⟨op, r, hf, hw, hd, rfl⟩

/-- A placed word is the word the next step fetches (`withFetchWord`). -/
theorem fetchWord_withFetchWord (s : State) (nbits w : Nat) :
    (s.withFetchWord nbits w).fault = none ∧ (s.withFetchWord nbits w).fetchWord = some (tableWord nbits w) := by
  refine ⟨rfl, fetchWord_placeWord s.readyToFetch _ ?_⟩
  simp only [State.readyToFetch]
  split
  · assumption
  · decide

end Sys2Proof.Machine
end

