-- ==== Sys2Proof/Laws/Safety.lean ====
section
/-! SUPPORT. The words of Safety.lean and the host's operations in the terms the provers use. -/

namespace Sys2Proof.Machine

/-- The fetched instruction, from the fetched word. -/
theorem fetched_iff (s : State) (i : Instr) :
    s.fetched = some i ↔ ∃ op, s.fetchWord = some op ∧ decode op = .ok i := by
  simp only [State.fetched]
  split
  · next op hw =>
    constructor
    · intro h
      refine ⟨op, hw, ?_⟩
      cases hd : decode op <;> simp_all [Except.toOption]
    · rintro ⟨op', h, hd⟩
      rw [hw] at h; cases h
      simp [hd, Except.toOption]
  · next hw => simp [hw]

/-- A step that executes a fetched instruction, as its execute step (R120). -/
theorem step_of_fetched (s : State) (i : Instr) (hf : s.fault = none) (h : s.fetched = some i) :
    ∃ u, exec i s.fetchedState = .next u ∧ step s = .next u.drawInputs := by
  obtain ⟨u, hu⟩ := exec_next i s.fetchedState
  obtain ⟨op, hw, hd⟩ := (fetched_iff s i).1 h
  refine ⟨u, hu, ?_⟩
  have fw : s.tickTimers.fetchWord = s.fetchWord := rfl
  have hu' : exec i s.tickTimers.advancePc = .next u := hu
  simp only [step, cycle, hf, runCycle, fw, hw, execWord, hd, hu', endCycle]

/-- A block write stays inside its block. -/
theorem frame_writeBlock (s : State) (a : Nat) (bs : List Byte) :
    Frame { base := a, len := List.length bs } s (s.writeBlock a bs) := by
  have e := writeBlock_eq bs s a
  refine ⟨fun r _ => by rw [e]; rfl, ?_, ?_⟩
  · intro c hc; rw [readByte_writeBlock, dif_neg]; dsimp at hc; omega
  · rw [e]; simp

/-- The cells DXYN's drawing covers are those of the picture. -/
theorem covers_spriteCovers (s : State) (x y : Reg) (n : Count) (cx : Fin 64) (cy : Fin 32) :
    covers (s.originX x) (s.originY y) (s.readBlock s.i.toNat n.val) cx cy = true ↔ s.spriteCovers x y n cx cy := by
  have hlen := readBlock_length s n.val s.i.toNat
  rw [covers_iff]
  constructor
  · rintro ⟨r, c, b, hb, hc, e1, e2, h⟩
    obtain ⟨hl, hb⟩ := List.getElem?_eq_some_iff.1 hb
    rw [readBlock_getElem] at hb
    exact ⟨r, c, by omega, hc, e1, e2, by rw [hb]; exact h⟩
  · rintro ⟨r, c, hr, hc, e1, e2, h⟩
    exact ⟨r, c, _, by rw [List.getElem?_eq_getElem (by omega), readBlock_getElem], hc, e1, e2, h⟩

/-- A load that is accepted (R340). -/
theorem resetAndLoad_accepted (s : State) (rom : List Byte) (h : rom.length ≤ 3584) :
    s.resetAndLoad (some rom) = (s.load rom, none) := by
  simp only [State.resetAndLoad]; rw [if_neg (by omega)]

/-- A byte after a load: the ROM's own, or what reset leaves (R340). -/
theorem readByte_load (s : State) (rom : List Byte) (a : Nat) :
    (s.load rom).readByte a = if h : 0x200 ≤ a ∧ a - 0x200 < rom.length then rom[a - 0x200] else resetByte s.cfg a := by
  rw [State.load, readByte_writeBlock]; rfl

end Sys2Proof.Machine
end

