-- ==== Sys2Proof/Tests/Slice0.lean ====
section
/-! SUPPORT. The model's own tests. Expected results are those of spec/95_test_vectors.md (its row is named), of the examples of
spec/41 to spec/46, or of the patterns of spec/30_encoding.md R95. After them, for every obligation with hypotheses, a concrete
state that meets them. -/

namespace Sys2Proof.Machine.Tests

/-! ### Helpers -/

/-- A configuration: modern shifts, NNN + V0, no stack limit, a font of which only FONT[50] = 0xF0 is set. -/
def cfg0 : Config :=
  { shiftSourceVY := false, jumpOffsetVX := false, stackLimit := none, font := (Vector.replicate 80 0x00#8).set 50 0xF0#8 }

/-- The reset core under that configuration, no tick, RAND = 0xA7. -/
def core0 : State := { State.reset with cfg := cfg0, tick := false, rand := 0xA7#8, draws := 0 }

/-- The same core under the legacy shift and NNN + VX. -/
def core1 : State := { core0 with cfg := { cfg0 with shiftSourceVY := true, jumpOffsetVX := true } }

/-- A core with room for two return addresses. -/
def core2 : State := { core0 with cfg := { cfg0 with stackLimit := some 2 } }

/-- The next state a result holds. -/
def answered : Result → State
  | .next t => t
  | .fault _ | .refused _ => core0

/-- One step on the given word. -/
def after (s : State) (w : Nat) : State := answered (step (s.withFetchWord 16 w))

/-- The registers set to the listed values. -/
def State.with (s : State) (l : List (Reg × Byte)) : State := l.foldl (fun s p => s.setReg p.1 p.2) s

/-! ### Well-formedness -/

theorem test_wf_sys_refuses_cls_word : (Instr.sys 0x0E0#12).wf = false := by decide
theorem test_wf_sys_refuses_ret_word : (Instr.sys 0x0EE#12).wf = false := by decide
theorem test_wf_jpOff_refuses_other_x : (Instr.jpOff 0x234#12 3).wf = false := by decide
theorem test_wf_accepts : (Instr.sys 0x1E0#12).wf = true ∧ (Instr.jpOff 0x234#12 2).wf = true := by decide

/-! ### Decoding, each word written out from its pattern (R95) -/

theorem test_decode_family0 : decode 0x0123#16 = .ok (.sys 0x123#12) ∧ decode 0x00E0#16 = .ok .cls ∧
    decode 0x00EE#16 = .ok .ret ∧ decode 0x0000#16 = .ok (.sys 0x000#12) ∧ decode 0x00FF#16 = .ok (.sys 0x0FF#12) :=
  ⟨rfl, rfl, rfl, rfl, rfl⟩
theorem test_decode_jumps : decode 0x12F0#16 = .ok (.jp 0x2F0#12) ∧ decode 0x2ABC#16 = .ok (.call 0xABC#12) ∧
    decode 0xB3FF#16 = .ok (.jpOff 0x3FF#12 3) ∧ decode 0xA123#16 = .ok (.ldI 0x123#12) := ⟨rfl, rfl, rfl, rfl⟩
theorem test_decode_skips : decode 0x3342#16 = .ok (.seImm 3 0x42#8) ∧ decode 0x4E01#16 = .ok (.sneImm 14 0x01#8) ∧
    decode 0x5120#16 = .ok (.seReg 1 2) ∧ decode 0x9AF0#16 = .ok (.sneReg 10 15) ∧ decode 0x912F#16 = .ok (.sneReg 1 2) :=
  ⟨rfl, rfl, rfl, rfl, rfl⟩
theorem test_decode_immediates : decode 0x6AFF#16 = .ok (.ldImm 10 0xFF#8) ∧ decode 0x7F01#16 = .ok (.addImm 15 0x01#8) ∧
    decode 0xC30F#16 = .ok (.rnd 3 0x0F#8) ∧ decode 0xD5E3#16 = .ok (.drw 5 14 3) := ⟨rfl, rfl, rfl, rfl⟩
theorem test_decode_family8_low : decode 0x8120#16 = .ok (.ldReg 1 2) ∧ decode 0x8121#16 = .ok (.orReg 1 2) ∧
    decode 0x8122#16 = .ok (.andReg 1 2) ∧ decode 0x8123#16 = .ok (.xorReg 1 2) ∧ decode 0x8124#16 = .ok (.addReg 1 2) :=
  ⟨rfl, rfl, rfl, rfl, rfl⟩
theorem test_decode_family8_high : decode 0x8125#16 = .ok (.sub 1 2) ∧ decode 0x8126#16 = .ok (.shr 1 2) ∧
    decode 0x8127#16 = .ok (.subn 1 2) ∧ decode 0x812E#16 = .ok (.shl 1 2) ∧ decode 0x812F#16 = .error (.unknown 0x812F#16) :=
  ⟨rfl, rfl, rfl, rfl, rfl⟩
theorem test_decode_keys : decode 0xE59E#16 = .ok (.skp 5) ∧ decode 0xEFA1#16 = .ok (.sknp 15) ∧
    decode 0xF30A#16 = .ok (.ldK 3) ∧ decode 0xE09F#16 = .error (.unknown 0xE09F#16) := ⟨rfl, rfl, rfl, rfl⟩
theorem test_decode_timers : decode 0xF307#16 = .ok (.ldFromDT 3) ∧ decode 0xF115#16 = .ok (.ldDT 1) ∧
    decode 0xF218#16 = .ok (.ldST 2) ∧ decode 0xF0FF#16 = .error (.unknown 0xF0FF#16) := ⟨rfl, rfl, rfl, rfl⟩
theorem test_decode_blocks : decode 0xF21E#16 = .ok (.addI 2) ∧ decode 0xF029#16 = .ok (.ldF 0) ∧
    decode 0xF333#16 = .ok (.ldB 3) ∧ decode 0xF255#16 = .ok (.stRegs 2) ∧ decode 0xFF65#16 = .ok (.ldRegs 15) :=
  ⟨rfl, rfl, rfl, rfl, rfl⟩
/-- The byte decoder takes the first byte as the more significant one (R75) and needs two. -/
theorem test_decode_bytes : decodeBytes [0x12#8, 0x34#8, 0x56#8] = .ok (.jp 0x234#12, [0x56#8]) ∧
    decodeBytes [0x12#8] = .error .truncated ∧ decodeTableWord 16 0xD125 = some (.drw 1 2 5) := ⟨rfl, rfl, rfl⟩
/-- The fields of L1-10. -/
theorem test_fields : fieldF 0xD125#16 = 13#4 ∧ fieldX 0xD125#16 = 1 ∧ fieldY 0xD125#16 = 2 ∧ fieldCount 0xD125#16 = 5 ∧
    fieldNN 0xD125#16 = 0x25#8 ∧ fieldNNN 0xD125#16 = 0x125#12 := by decide

/-! ### The cycle -/

/-- L2-A2: the tick comes before the execute step. -/
theorem test_tick_first : (after { core0 with dt := 5#8, tick := true } 0xF007).reg 0 = 4#8 := by decide
/-- L2-A3: a timer at 0 stays. -/
theorem test_tick_saturates : (after { core0 with st := 1#8, tick := true } 0x0000).dt = 0#8 ∧
    (after { core0 with st := 1#8, tick := true } 0x0000).st = 0#8 := by decide
/-- L2-A4: the last word of memory is fetched. -/
theorem test_fetch_last_word : (after (core0.setPc 0xFFE#16) 0x6007).reg 0 = 7#8 ∧
    (after (core0.setPc 0xFFE#16) 0x6007).pc = 0x1000#16 := by decide
/-- L2-A6: a fetch fault keeps the tick and PC. -/
theorem test_fetch_fault :
    (answered (step { core0.setPc 0xFFF#16 with dt := 3#8, tick := true })).fault =
      some { code := .fetchRange, pc := 0xFFF#16, opcode := none, info := some 0xFFF } ∧
    (answered (step { core0.setPc 0xFFF#16 with dt := 3#8, tick := true })).dt = 2#8 ∧
    (answered (step { core0.setPc 0xFFF#16 with dt := 3#8, tick := true })).pc = 0xFFF#16 := by decide
/-- L2-A8: an UNKNOWN word. -/
theorem test_unknown : (after core0 0xE000).diags = [.unknownOpcode 0x200#16 0xE000#16] ∧
    (after core0 0xE000).pc = 0x202#16 ∧ (after core0 0xE000).fault = none := by decide

/-! ### Control flow -/

/-- L2-B1. -/
theorem test_sys : (after core0 0x0123).pc = 0x202#16 ∧ (after core0 0x0123).diags = [] := by decide
/-- L2-B2. -/
theorem test_ret_empty : (after core0 0x00EE).fault =
      some { code := .stackUnderflow, pc := 0x200#16, opcode := some 0x00EE#16, info := none } ∧
    (after core0 0x00EE).pc = 0x202#16 := by decide
/-- L2-B3: the last entry is the top. -/
theorem test_ret : (after { core0 with stack := [0x202#16, 0x40A#16] } 0x00EE).pc = 0x40A#16 ∧
    (after { core0 with stack := [0x202#16, 0x40A#16] } 0x00EE).stack = [0x202#16] := by decide
/-- L2-B6. -/
theorem test_jp : (after core0 0x1FFF).pc = 0xFFF#16 := by decide
/-- L2-B8. -/
theorem test_call : (after (core0.setPc 0x204#16) 0x2ABC).stack = [0x206#16] ∧
    (after (core0.setPc 0x204#16) 0x2ABC).pc = 0xABC#16 := by decide
/-- L2-B9. -/
theorem test_call_full : (after { core2 with stack := [0x202#16, 0x302#16], pc := 0x400#16 } 0x2500).fault =
      some { code := .stackOverflow, pc := 0x400#16, opcode := some 0x2500#16, info := some 2 } ∧
    (after { core2 with stack := [0x202#16, 0x302#16], pc := 0x400#16 } 0x2500).stack = [0x202#16, 0x302#16] := by decide
/-- L2-B13: both variants. -/
theorem test_jpOff : (after (State.with core0 [(0, 0x05#8), (2, 0x10#8)]) 0xB234).pc = 0x239#16 ∧
    (after (State.with core1 [(0, 0x05#8), (2, 0x10#8)]) 0xB234).pc = 0x244#16 := by decide
/-- L2-B15: the highest target is not wrapped. -/
theorem test_jpOff_highest : (after (State.with core1 [(15, 0xFF#8)]) 0xBFFF).pc = 0x10FE#16 := by decide

/-! ### Skips -/

/-- L2-C1, L2-C2. -/
theorem test_seImm : (after (State.with core0 [(3, 0x42#8)]) 0x3342).pc = 0x204#16 ∧
    (after (State.with core0 [(3, 0x42#8)]) 0x3343).pc = 0x202#16 := by decide
/-- L2-C3, L2-C4. -/
theorem test_sneImm : (after (State.with core0 [(3, 0x42#8)]) 0x4342).pc = 0x202#16 ∧
    (after (State.with core0 [(3, 0x42#8)]) 0x4343).pc = 0x204#16 := by decide
/-- L2-A11, L2-C6. -/
theorem test_seReg : (after (State.with core0 [(1, 7#8), (2, 7#8)]) 0x5121).pc = 0x204#16 ∧
    (after (State.with core0 [(1, 7#8), (2, 8#8)]) 0x5120).pc = 0x202#16 := by decide
/-- L2-C7, L2-C8. -/
theorem test_sneReg : (after (State.with core0 [(1, 7#8), (2, 8#8)]) 0x9120).pc = 0x204#16 ∧
    (after (State.with core0 [(1, 7#8), (2, 7#8)]) 0x9120).pc = 0x202#16 := by decide
/-- L2-C9, L2-C10. -/
theorem test_skp : (after ((State.with core0 [(1, 5#8)]).writeKey 5 true) 0xE19E).pc = 0x204#16 ∧
    (after (State.with core0 [(1, 5#8)]) 0xE19E).pc = 0x202#16 := by decide
/-- L2-C13. -/
theorem test_skp_fault : (after (State.with core0 [(1, 0x10#8)]) 0xE19E).fault =
      some { code := .keyIndex, pc := 0x200#16, opcode := some 0xE19E#16, info := some 0x10 } ∧
    (after (State.with core0 [(1, 0x10#8)]) 0xE19E).pc = 0x202#16 := by decide
/-- L2-C11, L2-C12. -/
theorem test_sknp : (after (State.with core0 [(1, 5#8)]) 0xE1A1).pc = 0x204#16 ∧
    (after ((State.with core0 [(1, 5#8)]).writeKey 5 true) 0xE1A1).pc = 0x202#16 := by decide

/-! ### Registers and ALU -/

/-- L2-D1. -/
theorem test_ldImm : (after core0 0x6AFF).reg 10 = 0xFF#8 := by decide
/-- L2-D2. -/
theorem test_addImm : (after (State.with core0 [(0, 0xFF#8), (15, 0x55#8)]) 0x7001).reg 0 = 0x00#8 ∧
    (after (State.with core0 [(0, 0xFF#8), (15, 0x55#8)]) 0x7001).reg VF = 0x55#8 := by decide
/-- L2-D4. -/
theorem test_ldReg : (after (State.with core0 [(1, 0x12#8)]) 0x8010).reg 0 = 0x12#8 := by decide
/-- L2-D5. -/
theorem test_orReg : (after (State.with core0 [(0, 0xF0#8), (1, 0x0F#8), (15, 0x77#8)]) 0x8011).reg 0 = 0xFF#8 ∧
    (after (State.with core0 [(0, 0xF0#8), (1, 0x0F#8), (15, 0x77#8)]) 0x8011).reg VF = 0x77#8 := by decide
/-- L2-D6. -/
theorem test_andReg : (after (State.with core0 [(0, 0xF0#8), (1, 0x3C#8)]) 0x8012).reg 0 = 0x30#8 := by decide
/-- L2-D7. -/
theorem test_xorReg : (after (State.with core0 [(0, 0xF0#8), (1, 0x3C#8)]) 0x8013).reg 0 = 0xCC#8 := by decide
/-- L2-D9. -/
theorem test_addReg : (after (State.with core0 [(0, 0xFF#8), (1, 0x01#8)]) 0x8014).reg 0 = 0x00#8 ∧
    (after (State.with core0 [(0, 0xFF#8), (1, 0x01#8)]) 0x8014).reg VF = 1#8 := by decide
/-- L2-D12: the flag is written last. -/
theorem test_addReg_into_VF : (after (State.with core0 [(15, 0x10#8), (1, 0xF0#8)]) 0x8F14).reg VF = 1#8 := by decide
/-- L2-D15. -/
theorem test_sub : (after (State.with core0 [(0, 3#8), (1, 5#8)]) 0x8015).reg 0 = 0xFE#8 ∧
    (after (State.with core0 [(0, 3#8), (1, 5#8)]) 0x8015).reg VF = 0#8 := by decide
/-- L2-D14, L2-D16: the comparison is strict. -/
theorem test_sub_strict : (after (State.with core0 [(0, 5#8), (1, 3#8)]) 0x8015).reg VF = 1#8 ∧
    (after (State.with core0 [(0, 7#8), (1, 7#8)]) 0x8015).reg VF = 0#8 := by decide
/-- L2-D18, modern. -/
theorem test_shr_modern : (after (State.with core0 [(1, 0x05#8), (2, 0x10#8)]) 0x8126).reg 1 = 0x02#8 ∧
    (after (State.with core0 [(1, 0x05#8), (2, 0x10#8)]) 0x8126).reg VF = 1#8 := by decide
/-- L2-D18, legacy. -/
theorem test_shr_legacy : (after (State.with core1 [(1, 0x05#8), (2, 0x10#8)]) 0x8126).reg 1 = 0x08#8 ∧
    (after (State.with core1 [(1, 0x05#8), (2, 0x10#8)]) 0x8126).reg VF = 0#8 := by decide
/-- L2-D21: the destination is VY. -/
theorem test_subn : (after (State.with core0 [(1, 3#8), (2, 8#8)]) 0x8127).reg 2 = 5#8 ∧
    (after (State.with core0 [(1, 3#8), (2, 8#8)]) 0x8127).reg 1 = 3#8 ∧
    (after (State.with core0 [(1, 3#8), (2, 8#8)]) 0x8127).reg VF = 1#8 := by decide
/-- L2-D22. -/
theorem test_subn_borrow : (after (State.with core0 [(1, 8#8), (2, 3#8)]) 0x8127).reg 2 = 0xFB#8 ∧
    (after (State.with core0 [(1, 8#8), (2, 3#8)]) 0x8127).reg VF = 0#8 := by decide
/-- L2-D25, modern and legacy. -/
theorem test_shl : (after (State.with core0 [(1, 0x81#8), (2, 0x01#8)]) 0x812E).reg 1 = 0x02#8 ∧
    (after (State.with core0 [(1, 0x81#8), (2, 0x01#8)]) 0x812E).reg VF = 1#8 ∧
    (after (State.with core1 [(1, 0x81#8), (2, 0x01#8)]) 0x812E).reg VF = 0#8 := by decide
/-- L2-D27. -/
theorem test_rnd : (after core0 0xC30F).reg 3 = 0x07#8 := by decide

/-! ### Index and memory blocks -/

/-- L2-E1. -/
theorem test_ldI : (after core0 0xA123).i = 0x0123#16 := by decide
/-- L2-E2. -/
theorem test_addI : (after (State.with (core0.setI 0x0FFF#16) [(2, 1#8)]) 0xF21E).i = 0x1000#16 ∧
    (after (State.with (core0.setI 0x0FFF#16) [(2, 1#8)]) 0xF21E).reg VF = 1#8 := by decide
/-- L2-E5: the flag is of the sum before truncation. -/
theorem test_addI_wraps : (after (State.with (core0.setI 0xFFFF#16) [(2, 1#8)]) 0xF21E).i = 0x0000#16 ∧
    (after (State.with (core0.setI 0xFFFF#16) [(2, 1#8)]) 0xF21E).reg VF = 1#8 := by decide
/-- L2-E8: VX is not masked. -/
theorem test_ldF : (after (State.with core0 [(0, 0x0A#8)]) 0xF029).i = 0x082#16 ∧
    (after (State.with core0 [(0, 0xFF#8)]) 0xF029).i = 0x54B#16 := by decide
/-- L2-E9. -/
theorem test_ldB : State.readBlock (after (State.with (core0.setI 0x300#16) [(3, 156#8)]) 0xF333) 0x300 3 =
    [1#8, 5#8, 6#8] := by decide
/-- L2-E12. -/
theorem test_ldB_reserved : (after (State.with (core0.setI 0x1FF#16) [(3, 1#8)]) 0xF333).fault =
      some { code := .reservedWrite, pc := 0x200#16, opcode := some 0xF333#16, info := some 0x1FF } ∧
    (after (State.with (core0.setI 0x1FF#16) [(3, 1#8)]) 0xF333).mem = [(0x200, 0xF3#8), (0x201, 0x33#8)] := by decide
/-- The example of R226. -/
theorem test_stRegs : State.readBlock (after (State.with (core0.setI 0x400#16) [(0, 1#8), (1, 2#8), (2, 3#8)]) 0xF255) 0x400 4 =
    [1#8, 2#8, 3#8, 0#8] ∧ (after (State.with (core0.setI 0x400#16) [(0, 1#8), (1, 2#8), (2, 3#8)]) 0xF255).i = 0x400#16 := by
  decide
/-- R73: a block that reaches past the array, its lowest failing address named. -/
theorem test_stRegs_fault : (after (core0.setI 0xFF1#16) 0xFF55).fault =
    some { code := .writeRange, pc := 0x200#16, opcode := some 0xFF55#16, info := some 0x1000 } := by decide
/-- The example of R227, and L2-E20. -/
theorem test_ldRegs : (after ((core0.setI 0x400#16).writeBlock 0x400 [7#8, 8#8, 9#8]) 0xF265).v.toList.take 4 =
    [7#8, 8#8, 9#8, 0#8] ∧ (after (core0.setI 0x082#16) 0xF065).reg 0 = 0xF0#8 := by decide
/-- L2-E21. -/
theorem test_ldRegs_fault : (after (core0.setI 0xFF1#16) 0xFF65).fault =
    some { code := .readRange, pc := 0x200#16, opcode := some 0xFF65#16, info := some 0x1000 } := by decide

/-! ### Display -/

/-- The lit cells of a row, by column. -/
def litRow (s : State) (y : Fin 32) : List (Fin 64) := (List.finRange 64).filter fun x => s.cell x y

/-- L2-F2: glyph A's first row, from the font. -/
def drawnOnce : State := after (core0.setI 0x082#16) 0xD011

/-- L2-F1 on the display of L2-F2. -/
theorem test_cls : litRow (after drawnOnce 0x00E0) 0 = [] ∧ (after (drawnOnce.setReg VF 0x33#8) 0x00E0).reg VF = 0x33#8 := by
  decide
theorem test_drw : litRow drawnOnce 0 = [0, 1, 2, 3] ∧ drawnOnce.reg VF = 0#8 ∧ litRow drawnOnce 1 = [] := by decide
/-- L2-F3. -/
theorem test_drw_twice : litRow (after drawnOnce 0xD011) 0 = [] ∧ (after drawnOnce 0xD011).reg VF = 1#8 := by decide

/-! ### Timers and keypad -/

/-- L2-G2. -/
theorem test_ldFromDT : (after { core0 with dt := 0x20#8, tick := true } 0xF307).reg 3 = 0x1F#8 ∧
    (after { core0 with dt := 0x20#8, tick := true } 0xF307).dt = 0x1F#8 := by decide
/-- L2-G3. -/
theorem test_ldDT : (after { State.with core0 [(1, 0x3C#8)] with tick := true } 0xF115).dt = 0x3C#8 := by decide
/-- L2-G4, L2-G5. -/
theorem test_ldST : (after (State.with core0 [(1, 5#8)]) 0xF118).st = 5#8 ∧
    (after (State.with core0 [(1, 5#8)]) 0xF118).soundActive = true ∧
    (after { core0 with st := 9#8 } 0xF118).soundActive = false := by decide
/-- L2-G7. -/
theorem test_ldK_waits : (after (State.with core0 [(3, 0x77#8)]) 0xF30A).pc = 0x200#16 ∧
    (after (State.with core0 [(3, 0x77#8)]) 0xF30A).reg 3 = 0x77#8 := by decide
/-- L2-G8. -/
theorem test_ldK : (after ((core0.writeKey 9 true).writeKey 5 true) 0xF30A).reg 3 = 5#8 ∧
    (after ((core0.writeKey 9 true).writeKey 5 true) 0xF30A).pc = 0x202#16 := by decide

/-! ### Reset and load -/

/-- L2-H1. -/
theorem test_load : (drawnOnce.resetAndLoad (some [0xAB#8])).1.readBlock 0x200 2 = [0xAB#8, 0x00#8] ∧
    (drawnOnce.resetAndLoad (some [0xAB#8])).1.readByte 0x082 = 0xF0#8 ∧
    (drawnOnce.resetAndLoad (some [0xAB#8])).1.pc = 0x200#16 ∧ litRow (drawnOnce.resetAndLoad (some [0xAB#8])).1 0 = [] := by
  decide
/-- Two cells of a readout (R48): (1, 0) lit and (0, 1) unlit. -/
theorem test_readout : drawnOnce.readDisplay[1] = 0xFFFFFFFF#32 ∧ drawnOnce.readDisplay[64] = 0x00000000#32 := by
  simp only [State.readDisplay, Vector.getElem_ofFn]
  decide
/-- R46, R343: no cycle before the first load, and one after it. -/
theorem test_no_cycle_before_load : (construct cfg0 drawnOnce.toRecord).cycle = none ∧
    ((construct cfg0 drawnOnce.toRecord).host (.writeKey 3 true)).cycle = none ∧
    ((construct cfg0 drawnOnce.toRecord).host (.resetAndLoad none)).cycle = none ∧
    ((construct cfg0 drawnOnce.toRecord).host (.resetAndLoad (some [0x12#8, 0x00#8]))).cycle ≠ none :=
  ⟨rfl, rfl, rfl, fun h => nomatch h⟩
/-- L2-A2 as R120's function of the record and the two inputs. -/
theorem test_recordCycle :
    (recordCycle cfg0 true 0x00#8 (({ core0 with dt := 5#8 } : State).withFetchWord 16 0xF007).toRecord).1.v[0] = 4#8 := by decide
theorem test_reset_memory_canonical : Memory.wf State.reset.cfg State.reset.mem = true := rfl

/-! ### Witnesses -/

theorem witness_DecodeEncodeGivesInstructionBack :
    (Instr.jpOff 0xFFF#12 15).wf = true ∧ (Instr.sys 0x0E1#12).wf = true ∧ (Instr.drw 15 0 15).wf = true := by decide
theorem witness_EncodeDecodeGivesWordBack :
    decode 0x512F#16 = .ok (.seReg 1 2) ∧ decode 0xD12F#16 = .ok (.drw 1 2 15) := ⟨rfl, rfl⟩
/-- PC at its least and at its greatest fetchable value, an odd one among them. -/
theorem witness_StepRunsTheDecodedInstruction :
    (let s := (core0.setPc 0xFFE#16).withFetchWord 16 0x6007
     s.fault = none ∧ s.pc.toNat ≤ 0xFFE ∧
       (0x6007#16 : Word).toNat = (s.readByte s.pc.toNat).toNat * 256 + (s.readByte (s.pc.toNat + 1)).toNat) ∧
    (let s := (core0.setPc 0x001#16).withFetchWord 16 0x6007
     s.fault = none ∧ s.pc.toNat ≤ 0xFFE ∧
       (0x6007#16 : Word).toNat = (s.readByte s.pc.toNat).toNat * 256 + (s.readByte (s.pc.toNat + 1)).toNat) ∧
    decode 0x6007#16 = .ok (.ldImm 0 7#8) := ⟨by decide, by decide, rfl⟩
theorem witness_FetchPastMemoryFaults :
    (core0.setPc 0xFFF#16).fault = none ∧ 0xFFE < (core0.setPc 0xFFF#16).pc.toNat := by decide
theorem witness_UnknownWordOnlyReports :
    (let s := core0.withFetchWord 16 0x8008
     s.fault = none ∧ s.pc.toNat ≤ 0xFFE ∧
       (0x8008#16 : Word).toNat = (s.readByte s.pc.toNat).toNat * 256 + (s.readByte (s.pc.toNat + 1)).toNat) ∧
    decode 0x8008#16 = .error (.unknown 0x8008#16) := ⟨by decide, rfl⟩
/-- A faulted core, and a ROM it can be loaded with. -/
theorem witness_FaultedCoreStaysUntilLoad :
    (core0.faulted .stackUnderflow .ret none).fault =
      some { code := .stackUnderflow, pc := 0x1FE#16, opcode := some 0x00EE#16, info := none } ∧
    ([0x12#8, 0x00#8] : List Byte).length ≤ 3584 := by decide
/-- A step that is no FX15 and no FX18, on a ticking core. -/
theorem witness_TimersMoveOnlyByTickOrLoad :
    ∃ s t : State, s.fault = none ∧ step s = .next t ∧ s.tick = true ∧ (∀ x, s.fetched ≠ some (.ldDT x)) ∧
      (∀ x, s.fetched ≠ some (.ldST x)) := by
  refine ⟨({ core0 with tick := true, dt := 1#8 }).withFetchWord 16 0x6007, _, rfl, rfl, rfl, ?_, ?_⟩
  · have h : (({ core0 with tick := true, dt := 1#8 } : State).withFetchWord 16 0x6007).fetched = some (.ldImm 0 7#8) := by
      decide
    intro x hx; rw [h] at hx; cases hx
  · have h : (({ core0 with tick := true, dt := 1#8 } : State).withFetchWord 16 0x6007).fetched = some (.ldImm 0 7#8) := by
      decide
    intro x hx; rw [h] at hx; cases hx
theorem witness_ReturnPopsTheStack :
    ({ core0 with stack := [0x202#16, 0x40A#16] } : State).stack = [0x202#16] ++ [0x40A#16] ∧ core0.stack = [] := by decide
/-- Below the limit, without a limit, and at the limit. -/
theorem witness_CallPushesTheReturnAddress :
    ({ core2 with stack := [0x202#16] } : State).cfg.stackLimit ≠ some [0x202#16].length ∧
    core0.cfg.stackLimit ≠ some core0.stack.length ∧
    ({ core2 with stack := [0x202#16, 0x302#16] } : State).cfg.stackLimit = some [0x202#16, 0x302#16].length := by decide
theorem witness_RegisterSkipsCompare : fieldF 0x512F#16 = 5#4 ∧ fieldF 0x912F#16 = 9#4 := by decide
/-- The greatest key index, and the least value that is none. -/
theorem witness_KeySkipsTestTheKey :
    ((State.with core0 [(1, 0x0F#8)]).reg 1).toNat = (15 : Fin 16).val ∧ 0xF < ((State.with core0 [(1, 0x10#8)]).reg 1).toNat := by
  decide
theorem witness_AddSetsCarry : (0 : Reg) ≠ VF := by decide
theorem witness_SubtractSetsStrictNotBorrow : (1 : Reg) ≠ VF ∧ (2 : Reg) ≠ VF := by decide
/-- The source under either switch. -/
theorem witness_ShiftsMoveTheSelectedSource :
    (0x05#8 : Byte) = (if core0.cfg.shiftSourceVY then (State.with core0 [(1, 0x05#8), (2, 0x10#8)]).reg 2
      else (State.with core0 [(1, 0x05#8), (2, 0x10#8)]).reg 1) ∧
    (0x10#8 : Byte) = (if core1.cfg.shiftSourceVY then (State.with core1 [(1, 0x05#8), (2, 0x10#8)]).reg 2
      else (State.with core1 [(1, 0x05#8), (2, 0x10#8)]).reg 1) ∧ (1 : Reg) ≠ VF := by decide
theorem witness_FontAddressIsFiveTimesVX :
    core0.cfg.fontPremise = true ∧ ([] : List Byte).length ≤ 3584 ∧
    ∃ t, exec (.ldF 3) ((core0.resetAndLoad (some [])).1.setReg 3 0x0A#8) = .next t := ⟨by decide, by decide, _, rfl⟩
/-- I at both ends of the writable range, the last reserved address, and the first I whose third byte is outside. -/
theorem witness_BcdStoresThreeDigits :
    (0x200 ≤ (core0.setI 0x200#16).i.toNat ∧ (core0.setI 0x200#16).i.toNat + 2 ≤ 0xFFF) ∧
    (0x200 ≤ (core0.setI 0xFFD#16).i.toNat ∧ (core0.setI 0xFFD#16).i.toNat + 2 ≤ 0xFFF) ∧
    (core0.setI 0x1FF#16).i.toNat < 0x200 ∧ 0xFFF < (core0.setI 0xFFE#16).i.toNat + 2 := by decide
/-- The same for sixteen bytes. -/
theorem witness_BlockStoreCopiesRegisters :
    (0x200 ≤ (core0.setI 0x200#16).i.toNat ∧ (core0.setI 0x200#16).i.toNat + (15 : Reg).val ≤ 0xFFF) ∧
    (0x200 ≤ (core0.setI 0xFF0#16).i.toNat ∧ (core0.setI 0xFF0#16).i.toNat + (15 : Reg).val ≤ 0xFFF) ∧
    (core0.setI 0x1FF#16).i.toNat < 0x200 ∧ 0xFFF < (core0.setI 0xFF1#16).i.toNat + (15 : Reg).val := by decide
theorem witness_BlockLoadCopiesMemory :
    (core0.setI 0xFF0#16).i.toNat + (15 : Reg).val ≤ 0xFFF ∧ core0.i.toNat + (15 : Reg).val ≤ 0xFFF ∧
    0xFFF < (core0.setI 0xFF1#16).i.toNat + (15 : Reg).val ∧ (3 : Reg) ≤ 15 ∧ (3 : Reg) < 15 := by decide
theorem witness_StoredBytesAreFetched :
    0x200 ≤ (core0.setI 0x300#16).i.toNat ∧ (core0.setI 0x300#16).i.toNat + (5 : Reg).val ≤ 0xFFF ∧
    (3 : Reg).val = (2 : Reg).val + 1 ∧ (3 : Reg) ≤ 5 ∧ ∃ u, exec (.stRegs 5) (core0.setI 0x300#16) = .next u :=
  ⟨by decide, by decide, by decide, by decide, _, rfl⟩
/-- Each kind of failing check, at the edge of its range. -/
theorem witness_BlockChecksAreByteChecks :
    checkRead 0xFF1 16 = some (.readRange, 0x1000) ∧ checkWrite 0xFFE 3 = some (.writeRange, 0x1000) ∧
    checkWrite 0x1FF 3 = some (.reservedWrite, 0x1FF) ∧ checkRead 0xFF0 16 = none ∧ checkWrite 0x200 16 = none := by decide
/-- A readable sprite that covers a lit cell, one whose covered cells are all unlit, and one that cannot be read. -/
theorem witness_DrawTogglesTheSpritesCells :
    (drawnOnce.spriteReadable 1 ∧ drawnOnce.spriteCovers 0 1 1 3 0 ∧ drawnOnce.cell 3 0 = true ∧
      ¬ drawnOnce.spriteCovers 0 1 1 4 0) ∧
    (core0.spriteReadable 0 ∧ ¬ ∃ cx cy, core0.spriteCovers 0 1 0 cx cy ∧ core0.cell cx cy = true) ∧
    ¬ (core0.setI 0xFFE#16).spriteReadable 3 := by
  refine ⟨⟨Or.inr (by decide), ⟨0, 3, by decide, by decide, by decide, by decide, by decide⟩, by decide, ?_⟩,
    ⟨Or.inl rfl, ?_⟩, ?_⟩
  · rintro ⟨r, c, hr, hc, hx, -, hb⟩
    have h1 : r = 0 := by have : (1 : Count).val = 1 := rfl; omega
    have h2 : (drawnOnce.reg 0).toNat % 64 = 0 := by decide
    rw [h2] at hx
    have h3 : c = 4 := by simpa using hx
    subst h1; subst h3
    exact absurd hb (by decide)
  · rintro ⟨cx, cy, ⟨r, c, hr, -⟩, -⟩
    exact absurd hr (Nat.not_lt_zero r)
  · rintro (h | h)
    · exact absurd h (by decide)
    · exact absurd h (by decide)
theorem witness_DrawingTwiceRestoresTheDisplay :
    (0 : Reg) ≠ VF ∧ (1 : Reg) ≠ VF ∧ (core0.setI 0x082#16).spriteReadable 1 ∧
    ∃ cx cy, (core0.setI 0x082#16).spriteCovers 0 1 1 cx cy ∧ (core0.setI 0x082#16).cell cx cy = false :=
  ⟨by decide, by decide, Or.inr (by decide), 0, 0, ⟨0, 0, by decide, by decide, by decide, by decide, by decide⟩, by decide⟩
theorem witness_DelayTimerIsReadAfterTheTick :
    (({ core0 with tick := true, dt := 5#8 } : State).withFetchWord 16 0xF307).fault = none ∧
    (({ core0 with tick := true, dt := 5#8 } : State).withFetchWord 16 0xF307).fetched = some (.ldFromDT 3) := by decide
theorem witness_DelayTimerIsLoadedAfterTheTick :
    (({ core0 with tick := true } : State).withFetchWord 16 0xF115).fault = none ∧
    (({ core0 with tick := true } : State).withFetchWord 16 0xF115).fetched = some (.ldDT 1) := by decide
theorem witness_SoundTimerIsLoaded :
    (({ core0 with tick := true } : State).withFetchWord 16 0xF118).fault = none ∧
    (({ core0 with tick := true } : State).withFetchWord 16 0xF118).fetched = some (.ldST 1) := by decide
/-- A pressed key with none below it, and a core that waits. -/
theorem witness_WaitForKeyTakesTheLowest :
    (((core0.writeKey 9 true).writeKey 5 true).readKey 5 = true ∧
      ∀ j, j < 5 → ((core0.writeKey 9 true).writeKey 5 true).readKey j = false) ∧
    ((core0.withFetchWord 16 0xF30A).fault = none ∧ (core0.withFetchWord 16 0xF30A).fetched = some (.ldK 3) ∧
      ∀ k, (core0.withFetchWord 16 0xF30A).readKey k = false) := by decide
theorem witness_RegisterWritesAreTheTables :
    (2 : Reg) ∉ Instr.regWrites (.subn 2 3) ∧ ∃ t, exec (.subn 2 3) core0 = .next t := ⟨by decide, _, rfl⟩
theorem witness_OnlyTheListedInstructionsWrite : ∃ t, exec (.addReg 1 2) core0 = .next t := ⟨_, rfl⟩
theorem witness_KeypadIsTheHostsToWrite :
    (∀ x, (Instr.ldST 1) ≠ .skp x ∧ (Instr.ldST 1) ≠ .sknp x ∧ (Instr.ldST 1) ≠ .ldK x) ∧
    (∃ t, exec (.ldST 1) core0 = .next t) ∧ (∃ t, step core0 = .next t) ∧ ([] : List Byte).length ≤ 3584 :=
  ⟨by decide, ⟨_, rfl⟩, ⟨_, rfl⟩, by decide⟩
/-- An execute step and a whole step on a display with lit cells. -/
theorem witness_DisplayIsWrittenByClsAndDrwOnly :
    Instr.ret ≠ .cls ∧ (∀ x y n, Instr.ret ≠ .drw x y n) ∧ (∃ t, exec .ret drawnOnce = .next t) ∧
    drawnOnce.fault = none ∧ (∃ t, step drawnOnce = .next t) ∧ drawnOnce.fetched = some (.sys 0x000#12) :=
  ⟨by decide, by decide, ⟨_, rfl⟩, by decide, ⟨_, rfl⟩, by decide⟩
theorem witness_FaultsArePrecise :
    exec .ret core0 = .next (core0.faulted .stackUnderflow .ret none) ∧
    (core0.faulted .stackUnderflow .ret none).fault ≠ core0.fault := ⟨rfl, by decide⟩
/-- One state for each of the six ways an instruction faults. -/
theorem witness_EachInstructionRaisesItsOwnFault :
    exec .ret core0 = .next (core0.faulted .stackUnderflow .ret none) ∧
    exec (.call 0x300#12) { core2 with stack := [1#16, 2#16] } =
      .next (({ core2 with stack := [1#16, 2#16] } : State).faulted .stackOverflow (.call 0x300#12) (some 2)) ∧
    exec (.drw 0 1 3) (core0.setI 0xFFE#16) = .next ((core0.setI 0xFFE#16).faulted .readRange (.drw 0 1 3) (some 0x1000)) ∧
    exec (.ldB 0) (core0.setI 0xFFE#16) = .next ((core0.setI 0xFFE#16).faulted .writeRange (.ldB 0) (some 0x1000)) ∧
    exec (.stRegs 0) core0 = .next (core0.faulted .reservedWrite (.stRegs 0) (some 0)) ∧
    exec (.sknp 1) (State.with core0 [(1, 0xFF#8)]) =
      .next ((State.with core0 [(1, 0xFF#8)]).faulted .keyIndex (.sknp 1) (some 0xFF)) ∧ core0.fault = none :=
  ⟨rfl, rfl, rfl, rfl, rfl, rfl, rfl⟩
theorem witness_OnlyUnknownWordsAreReported :
    (∃ t, step core0 = .next t) ∧ (∃ t, step (core0.withFetchWord 16 0x8008) = .next t) ∧
    (core0.withFetchWord 16 0x8008).fetchWord = some 0x8008#16 ∧ decode 0x8008#16 = .error (.unknown 0x8008#16) :=
  ⟨⟨_, rfl⟩, ⟨_, rfl⟩, by decide, rfl⟩
/-- L2-B5: a jump to its own address. -/
theorem witness_EndedRunStaysEnded : (core0.withFetchWord 16 0x1200).ended :=
  ⟨rfl, 0x200#12, by decide, by decide⟩
/-- A step that stores, and an address below the program. -/
theorem witness_ReservedRegionIsNeverWritten :
    (∃ t, step ((core0.setI 0x200#16).withFetchWord 16 0xFF55) = .next t) ∧ (0x1FF : Nat) < 0x200 := ⟨⟨_, rfl⟩, by decide⟩
/-- A memory with listed bytes, and a step that stores. -/
theorem witness_MemoryStaysCanonical :
    ((core0.setI 0xFF0#16).withFetchWord 16 0xFF55).memoryCanonical ∧
    (∃ t, step ((core0.setI 0xFF0#16).withFetchWord 16 0xFF55) = .next t) := by
  refine ⟨?_, _, rfl⟩
  show Memory.wf _ _ = true
  decide
/-- PC and a return address at their bounds, and a state that takes a return to one. -/
theorem witness_ProgramCounterStaysBounded :
    ({ core0 with pc := 0x10FE#16 } : State).pcBounded ∧
    (({ core0 with stack := [0x1000#16] } : State).withFetchWord 16 0x00EE).pcBounded ∧
    (∃ t, step (({ core0 with stack := [0x1000#16] } : State).withFetchWord 16 0x00EE) = .next t) := by
  refine ⟨⟨by decide, fun a h => nomatch h⟩, ⟨by decide, fun a h => ?_⟩, _, rfl⟩
  have h' : a ∈ [0x1000#16] := h
  rw [List.mem_singleton.1 h']; decide
/-- A stack at its limit, and one below it about to be pushed to. -/
theorem witness_StackStaysWithinItsLimit :
    ({ core2 with stack := [1#16, 2#16] } : State).stackWithinLimit ∧
    (({ core2 with stack := [1#16] } : State).withFetchWord 16 0x2300).stackWithinLimit ∧
    (∃ t, step (({ core2 with stack := [1#16] } : State).withFetchWord 16 0x2300) = .next t) := by
  refine ⟨?_, ?_, _, rfl⟩
  · intro n hn; cases hn; decide
  · intro n hn; cases hn; decide
/-- A core before its first load and a host operation that is no accepted load, and a ROM that is accepted. -/
theorem witness_ResetIsALoadOfNothing :
    (construct cfg0 core0.toRecord).cycle = none ∧
    (∀ rom, HostOp.resetAndLoad none = .resetAndLoad (some rom) → 3584 < rom.length) ∧
    (∀ rom, HostOp.writeKey 3 true = .resetAndLoad (some rom) → 3584 < rom.length) ∧
    ([0x12#8, 0x00#8] : List Byte).length ≤ 3584 :=
  ⟨rfl, nofun, nofun, by decide⟩
theorem witness_ConfigurationIsFixed : ∃ t, step core1 = .next t := ⟨_, rfl⟩
/-- The longest ROM that is accepted and the shortest that is not; an index into a ROM; an address in each zeroed region. -/
theorem witness_LoadResetsEverything :
    (∃ rom : List Byte, rom.length = 3584) ∧ (∃ rom : List Byte, rom.length = 3585) ∧ 0 < ([0xAB#8] : List Byte).length ∧
    0x04F < 0x050 ∧ (0x0A0 ≤ 0x1FF ∧ 0x1FF < 0x200) ∧ 0x200 + ([0xAB#8] : List Byte).length ≤ 0x201 :=
  have h (n : Nat) : ∃ rom : List Byte, rom.length = n := ⟨List.replicate n 0x00#8, List.length_replicate⟩
  ⟨h 3584, h 3585, by decide⟩

end Sys2Proof.Machine.Tests
end

section
/-! Proofs about the encoding (spec/30_encoding.md). -/

namespace Sys2Proof

/-- Settles O2: each slice is the law of its field in Laws/Encoding.lean, whose divisors are R91's powers of two evaluated. -/
theorem fieldsAreTheNamedSlices : Obligations.FieldsAreTheNamedSlices := fun op =>
  ⟨fieldF_toNat op, fieldX_val op, fieldY_val op, fieldN_toNat op, fieldCount_val op, fieldNN_toNat op, fieldNNN_toNat op⟩

end Sys2Proof
end

section
/-! Proofs about control flow (spec/41_control_flow.md). -/

namespace Sys2Proof.Machine

/-- Writing PC leaves everything else as it is. -/
theorem frame_setPc (s : State) (a : Word) : Frame { pc := true } s (s.setPc a) := by
  refine ⟨fun r _ => reg_setPc s a r, fun b _ => readByte_setPc s a b, ?_⟩
  simp

/-- The execute step of JP writes the zero-extended NNN to PC (R142). -/
theorem exec_jp (nnn : Addr) (s : State) : exec (.jp nnn) s = .next (s.setPc (zextAddr nnn)) := rfl

/-- Settles O15: the next state is the one `exec_jp` names, and zero extension keeps the value of NNN. -/
theorem jumpLoadsTheAddress : Obligations.JumpLoadsTheAddress := fun nnn s =>
  ⟨s.setPc (zextAddr nnn), exec_jp nnn s, zextAddr_toNat nnn, frame_setPc s _⟩

end Sys2Proof.Machine
end

section
/-! Proofs about the conditional skips (spec/42_conditional_skip.md). -/

namespace Sys2Proof.Machine

variable (s : State)

@[simp] theorem skipIf_pc (c : Bool) : (s.skipIf c).pc = if c then s.pc + 2 else s.pc := rfl

/-- A skip writes PC alone, whether it is taken or not (R160). -/
theorem frame_skipIf (c : Bool) : Frame { pc := true } s (s.skipIf c) := frame_setPc s _

/-- What every conditional skip does (R160): an instruction whose next state is the common skip on a test `c` adds 2 to the
post-fetch PC exactly if the condition `p` that `c` decides holds, and changes nothing else. -/
theorem exec_skips_iff {s : State} {ins : Instr} {c : Bool} {p : Prop} [Decidable p]
    (hexec : exec ins s = .next (s.skipIf c)) (hc : c = true ↔ p) :
    ∃ t, exec ins s = .next t ∧ t.pc = (if p then s.pc + 2 else s.pc) ∧ Frame { pc := true } s t := by
  refine ⟨s.skipIf c, hexec, ?_, frame_skipIf s c⟩
  rw [skipIf_pc]
  exact if_congr hc rfl rfl

/-- The execute step of SE is the common skip on equality with NN (R161). -/
theorem exec_seImm (x : Reg) (nn : Byte) : exec (.seImm x nn) s = .next (s.skipIf (s.reg x == nn)) := rfl

/-- The execute step of SNE is the common skip on difference from NN (R162). -/
theorem exec_sneImm (x : Reg) (nn : Byte) : exec (.sneImm x nn) s = .next (s.skipIf (s.reg x != nn)) := rfl

/-- Settles O18: both are the common skip, and their tests decide `VX = NN` and `VX ≠ NN`. -/
theorem immediateSkipsCompare : Obligations.ImmediateSkipsCompare := fun x nn s =>
  ⟨exec_skips_iff (exec_seImm s x nn) beq_iff_eq, exec_skips_iff (exec_sneImm s x nn) bne_iff_ne⟩

end Sys2Proof.Machine
end

section
/-! Proofs about the register and ALU instructions (spec/43_register_alu.md). -/

namespace Sys2Proof.Machine

variable (s : State)

/-- Writing one register leaves everything else as it is, VF included unless it is the one written. -/
theorem frame_setReg (x : Reg) (b : Byte) : Frame { regs := [x] } s (s.setReg x b) := by
  refine ⟨fun r hr => ?_, fun a _ => readByte_setReg s x b a, ?_⟩
  · exact reg_setReg_other s x r b (List.ne_of_not_mem_cons hr)
  · simp

/-- What every instruction without a flag does (R180 to R185): if its next state writes `b` to VX, then VX holds `b` and
nothing else changes. -/
theorem exec_writes_reg {s : State} {ins : Instr} {x : Reg} {b : Byte} (hexec : exec ins s = .next (s.setReg x b)) :
    ∃ t, exec ins s = .next t ∧ t.reg x = b ∧ Frame { regs := [x] } s t :=
  ⟨s.setReg x b, hexec, reg_setReg_same s x b, frame_setReg s x b⟩

/-- The execute step of LD writes NN to VX (R180). -/
theorem exec_ldImm (x : Reg) (nn : Byte) : exec (.ldImm x nn) s = .next (s.setReg x nn) := rfl

/-- The execute step of ADD writes the 8-bit sum of VX and NN to VX (R181). -/
theorem exec_addImm (x : Reg) (nn : Byte) : exec (.addImm x nn) s = .next (s.setReg x (s.reg x + nn)) := rfl

/-- The execute step of LD writes VY to VX (R182). -/
theorem exec_ldReg (x y : Reg) : exec (.ldReg x y) s = .next (s.setReg x (s.reg y)) := rfl

/-- The execute step of OR writes the bitwise or of VX and VY to VX (R183). -/
theorem exec_orReg (x y : Reg) : exec (.orReg x y) s = .next (s.setReg x (s.reg x ||| s.reg y)) := rfl

/-- The execute step of AND writes the bitwise and of VX and VY to VX (R184). -/
theorem exec_andReg (x y : Reg) : exec (.andReg x y) s = .next (s.setReg x (s.reg x &&& s.reg y)) := rfl

/-- The execute step of XOR writes the bitwise exclusive or of VX and VY to VX (R185). -/
theorem exec_xorReg (x y : Reg) : exec (.xorReg x y) s = .next (s.setReg x (s.reg x ^^^ s.reg y)) := rfl

/-- Settles O21: the next state is the one `exec_ldImm` names, a write of one register. -/
theorem setWritesTheImmediate : Obligations.SetWritesTheImmediate := fun x nn s =>
  exec_writes_reg (exec_ldImm s x nn)

/-- Settles O22: the one register written holds the 8-bit sum, whose value is the sum mod 256. -/
theorem addImmediateWrapsWithoutFlag : Obligations.AddImmediateWrapsWithoutFlag := by
  intro x nn s
  obtain ⟨t, hexec, hreg, hframe⟩ := exec_writes_reg (exec_addImm s x nn)
  refine ⟨t, hexec, ?_, hframe⟩
  rw [hreg, BitVec.toNat_add]

/-- Settles O23: each of the four is a write of one register, with the value its `exec_` lemma names. -/
theorem copyAndLogicWriteOnlyVX : Obligations.CopyAndLogicWriteOnlyVX := fun x y s =>
  ⟨exec_writes_reg (exec_ldReg s x y), exec_writes_reg (exec_orReg s x y),
    exec_writes_reg (exec_andReg s x y), exec_writes_reg (exec_xorReg s x y)⟩

end Sys2Proof.Machine
end

section
/-! Proofs about the index register and memory (spec/44_index_and_memory.md). -/

namespace Sys2Proof.Machine

/-- Writing I leaves everything else as it is. -/
theorem frame_setI (s : State) (a : Word) : Frame { i := true } s (s.setI a) := by
  refine ⟨fun r _ => reg_setI s a r, fun b _ => readByte_setI s a b, ?_⟩
  simp

/-- The execute step of LD F writes the glyph address of VX to I (R224). -/
theorem exec_ldF (x : Reg) (s : State) : exec (.ldF x) s = .next (s.setI (glyphAddress (s.reg x))) := rfl

/-- After a load the 80 bytes from 0x050 on are FONT, whatever the ROM (R66, R340). -/
theorem readByte_load_font (s : State) (rom : List Byte) (k : Fin 80) :
    (s.load rom).readByte (0x050 + k.val) = s.cfg.font[k.val] := by
  have below_rom : ¬(0x200 ≤ 0x050 + k.val ∧ 0x050 + k.val - 0x200 < rom.length) := by omega
  have in_font : 0x050 ≤ 0x050 + k.val ∧ 0x050 + k.val < 0x0A0 := by omega
  rw [readByte_load, dif_neg below_rom, resetByte, dif_pos in_font]
  simp

/-- The premise about FONT as an equation (R66). -/
theorem fontPremise_iff (cfg : Config) : cfg.fontPremise = true ↔ cfg.font[50] = 0xF0#8 := by
  simp [Config.fontPremise]

/-- Settles O30: the next state is the one `exec_ldF` names. The glyph address of the digit A is 0x050 + 50, and the byte a
load leaves there is the one of FONT that the premise is about. -/
theorem fontAddressIsFiveTimesVX : Obligations.FontAddressIsFiveTimesVX := by
  refine ⟨fun x s => ⟨_, exec_ldF x s, glyphAddress_toNat (s.reg x), frame_setI s _⟩, ?_⟩
  intro s t rom x hfont hrom hexec
  rw [resetAndLoad_accepted s rom hrom, exec_ldF, reg_setReg_same] at hexec
  cases hexec
  have glyphA : (glyphAddress 0x0A#8).toNat = 0x050 + (50 : Fin 80).val := glyphAddress_toNat 0x0A#8
  rw [setI_i, readByte_setI, readByte_setReg, glyphA, readByte_load_font]
  exact (fontPremise_iff s.cfg).1 hfont

end Sys2Proof.Machine
end

section
/-! Proofs about the timers (spec/46_timers_and_keypad.md). -/

namespace Sys2Proof.Machine

/-- The execute step of LD writes DT to VX (R270). -/
theorem exec_ldFromDT (x : Reg) (s : State) : exec (.ldFromDT x) s = .next (s.setReg x s.dt) := rfl

/-- The execute step of a cycle finds DT as the tick left it (R130): the fetch between them advances PC alone. -/
theorem fetchedState_dt (s : State) : s.fetchedState.dt = s.tickTimers.dt := setPc_dt s.tickTimers (s.pc + 2)

/-- The tick takes one from DT, saturating at 0, exactly if TICK is set (R31, R122). -/
theorem tickTimers_dt_toNat (s : State) :
    s.tickTimers.dt.toNat = if s.tick then s.dt.toNat - 1 else s.dt.toNat := by
  rw [tickTimers_dt, apply_ite BitVec.toNat, countDown_toNat]

/-- Settles O40: the execute step is the write of VX that `exec_ldFromDT` names. Over a whole step it starts from the fetched
state, whose DT is the ticked one, and the draw of the next inputs keeps VX. -/
theorem delayTimerIsReadAfterTheTick : Obligations.DelayTimerIsReadAfterTheTick := by
  refine ⟨fun x s => exec_writes_reg (exec_ldFromDT x s), ?_⟩
  intro x s hrunning hfetched
  obtain ⟨u, hexec, hstep⟩ := step_of_fetched s (.ldFromDT x) hrunning hfetched
  rw [exec_ldFromDT] at hexec
  cases hexec
  refine ⟨_, hstep, ?_⟩
  rw [reg_drawInputs, reg_setReg_same, fetchedState_dt, tickTimers_dt_toNat]

end Sys2Proof.Machine
end

section
/-! The decoder against the encoder (spec/30_encoding.md R95 to R99). -/

namespace Sys2Proof

/-! ### A word of a family is its fields (R91, R93) -/

section
variable {op : Word} {f : BitVec 4} (h : (fieldF op).toNat = f.toNat)
include h

theorem encNNN_of_family : encNNN f (fieldNNN op) = op := by
  apply BitVec.eq_of_toNat_eq
  rw [encNNN_toNat, ← h, fieldF_toNat, fieldNNN_toNat]; omega

theorem encXNN_of_family {nn : Byte} (hnn : fieldNN op = nn) : encXNN f (fieldX op) nn = op := by
  apply BitVec.eq_of_toNat_eq
  rw [encXNN_toNat, ← h, ← hnn, fieldF_toNat, fieldX_val, fieldNN_toNat]; omega

theorem encXYN_of_family {n : BitVec 4} (hn : fieldN op = n) : encXYN f (fieldX op) (fieldY op) n = op := by
  apply BitVec.eq_of_toNat_eq
  rw [encXYN_toNat, ← h, ← hn, fieldF_toNat, fieldX_val, fieldY_val, fieldN_toNat]; omega

end

theorem encXYN_and_clear_low (f : BitVec 4) (x y : Reg) (n : BitVec 4) :
    encXYN f x y n &&& 0xFFF0#16 = encXYN f x y 0x0#4 := by
  unfold encXYN
  apply BitVec.eq_of_getLsbD_eq
  intro k hk
  simp only [BitVec.getLsbD_and, BitVec.getLsbD_append]
  interval_cases k <;> simp

/-- The shape with N = 0, which families 5 and 9 are written in, is the word without its low nibble (R98). -/
theorem encXYN_zero_of_family {op : Word} {f : BitVec 4} (h : fieldF op = f) :
    encXYN f (fieldX op) (fieldY op) 0x0#4 = op &&& 0xFFF0#16 := by
  rw [← encXYN_and_clear_low f (fieldX op) (fieldY op) (fieldN op), encXYN_of_family (congrArg BitVec.toNat h) rfl]

/-! ### The decoder, family by family (R96) -/

section
variable {op : Word}

theorem decode_family0 (h : fieldF op = 0x0#4) : decode op = .ok (decode0 op) := by simp [decode, h]
theorem decode_family5 (h : fieldF op = 0x5#4) : decode op = .ok (.seReg (fieldX op) (fieldY op)) := by simp [decode, h]
theorem decode_family8 (h : fieldF op = 0x8#4) : decode op = decode8 op := by simp [decode, h]
theorem decode_family9 (h : fieldF op = 0x9#4) : decode op = .ok (.sneReg (fieldX op) (fieldY op)) := by
  simp [decode, h]
theorem decode_familyE (h : fieldF op = 0xE#4) : decode op = decodeE op := by simp [decode, h]
theorem decode_familyF (h : fieldF op = 0xF#4) : decode op = decodeF op := by simp [decode, h]

/-- Every word of the other families decodes to an instruction (R99). -/
theorem decode_ok_of_family (h8 : fieldF op ≠ 0x8#4) (hE : fieldF op ≠ 0xE#4) (hF : fieldF op ≠ 0xF#4) :
    ∃ i, decode op = .ok i := by
  have n8 : (fieldF op).toNat ≠ 0x8 := fun e => h8 (BitVec.eq_of_toNat_eq e)
  have nE : (fieldF op).toNat ≠ 0xE := fun e => hE (BitVec.eq_of_toNat_eq e)
  have nF : (fieldF op).toNat ≠ 0xF := fun e => hF (BitVec.eq_of_toNat_eq e)
  have := (fieldF op).isLt
  simp only [decode]
  split
  case h_9 e => exact absurd e n8
  case h_15 e => exact absurd e nE
  case h_16 => grind
  all_goals exact ⟨_, rfl⟩

end

/-! ### Decoding an encoded instruction -/

/-- A SYS word that is well formed is not one of the two words of family 0 that decode otherwise (R97). -/
theorem decode0_encNNN (nnn : Addr) (hcls : nnn ≠ 0x0E0#12) (hret : nnn ≠ 0x0EE#12) :
    decode0 (encNNN 0x0#4 nnn) = .sys nnn := by
  have other : ∀ a : Addr, nnn ≠ a → encNNN 0x0#4 nnn ≠ encNNN 0x0#4 a := fun a h e => by
    have := congrArg fieldNNN e
    rw [fieldNNN_encNNN, fieldNNN_encNNN] at this
    exact h this
  have ncls : encNNN 0x0#4 nnn ≠ 0x00E0#16 := other 0x0E0#12 hcls
  have nret : encNNN 0x0#4 nnn ≠ 0x00EE#16 := other 0x0EE#12 hret
  rw [decode0, if_neg ncls, if_neg nret, fieldNNN_encNNN]

theorem decode_encode (i : Instr) (h : i.wf = true) : decode (encode i) = .ok i := by
  cases i
  case sys nnn =>
    simp only [Instr.wf, Bool.and_eq_true, bne_iff_ne] at h
    rw [encode, decode_family0 (fieldF_encNNN _ _), decode0_encNNN nnn h.1 h.2]
  case jpOff nnn x =>
    have hx : fieldX (encNNN 0xB#4 nnn) = x := Fin.ext (by
      rw [fieldX_encNNN]; exact (by simpa [Instr.wf] using h : x.val = nnn.toNat / 256).symm)
    simp [encode, decode, hx]
  case cls => rfl
  case ret => rfl
  case drw x y n => simp [encode, decode, fieldCount]; rfl
  all_goals simp [encode, decode, decode8, decodeE, decodeF]

/-- Settles O3: the word by `decode_encode`, and the two bytes of a word in memory order are that word (R75). -/
theorem decodeEncodeGivesInstructionBack : Obligations.DecodeEncodeGivesInstructionBack := by
  intro i rest hwf
  refine ⟨decode_encode i hwf, ?_⟩
  simp only [encodeBytes, List.cons_append, List.nil_append, decodeBytes, wordOfBytes_bytes, decode_encode i hwf]

/-! ### Encoding a decoded instruction -/

/-- The instruction is well formed and its word is this one. -/
def EncodesTo (i : Instr) (op : Word) : Prop := i.wf = true ∧ encode i = op

section
variable {op : Word} {i : Instr}

theorem encodesTo_decode0 (h : (fieldF op).toNat = 0x0) : EncodesTo (decode0 op) op := by
  have word : encNNN 0x0#4 (fieldNNN op) = op := encNNN_of_family h
  unfold decode0
  split
  · next e => exact ⟨rfl, e.symm⟩
  split
  · next e => exact ⟨rfl, e.symm⟩
  next hcls hret =>
  refine ⟨?_, word⟩
  simp only [Instr.wf, Bool.and_eq_true, bne_iff_ne]
  exact ⟨fun e => hcls (by rw [← word, e]; rfl), fun e => hret (by rw [← word, e]; rfl)⟩

theorem encodesTo_decode8 (h : (fieldF op).toNat = 0x8) (hd : decode8 op = .ok i) : EncodesTo i op := by
  simp only [decode8] at hd
  repeat' split at hd
  case isFalse => cases hd
  all_goals
    next hn =>
      cases hd
      exact ⟨rfl, encXYN_of_family h hn⟩

theorem encodesTo_decodeE (h : (fieldF op).toNat = 0xE) (hd : decodeE op = .ok i) : EncodesTo i op := by
  simp only [decodeE] at hd
  repeat' split at hd
  case isFalse => cases hd
  all_goals
    next hnn =>
      cases hd
      exact ⟨rfl, encXNN_of_family h hnn⟩

theorem encodesTo_decodeF (h : (fieldF op).toNat = 0xF) (hd : decodeF op = .ok i) : EncodesTo i op := by
  simp only [decodeF] at hd
  repeat' split at hd
  case isFalse => cases hd
  all_goals
    next hnn =>
      cases hd
      exact ⟨rfl, encXNN_of_family h hnn⟩

/-- Outside families 5 and 9 every bit of a word is looked at (R98). -/
theorem encodesTo_of_decode (h5 : fieldF op ≠ 0x5#4) (h9 : fieldF op ≠ 0x9#4) (hd : decode op = .ok i) :
    EncodesTo i op := by
  by_cases hF : fieldF op = 0xF#4
  · exact encodesTo_decodeF (congrArg BitVec.toNat hF) (decode_familyF hF ▸ hd)
  simp only [decode] at hd
  split at hd
  case h_6 e => exact absurd (BitVec.eq_of_toNat_eq e) h5
  case h_10 e => exact absurd (BitVec.eq_of_toNat_eq e) h9
  case h_1 e => cases hd; exact encodesTo_decode0 e
  case h_9 e => exact encodesTo_decode8 e hd
  case h_15 e => exact encodesTo_decodeE e hd
  case h_16 =>
    have := (fieldF op).isLt
    have : (fieldF op).toNat ≠ 0xF := fun e => hF (BitVec.eq_of_toNat_eq e)
    grind
  case h_12 e =>
    cases hd
    refine ⟨?_, encNNN_of_family e⟩
    simp only [Instr.wf, beq_iff_eq, fieldX_val, fieldNNN_toNat]; omega
  case h_2 e | h_3 e | h_11 e => cases hd; exact ⟨rfl, encNNN_of_family e⟩
  case h_14 e => cases hd; exact ⟨rfl, encXYN_of_family e rfl⟩
  all_goals next e => cases hd; exact ⟨rfl, encXNN_of_family e rfl⟩

end

/-- Settles O4: families 5 and 9 decode to the two instructions whose words have low nibble 0, every other family to an
instruction of exactly this word. -/
theorem encodeDecodeGivesWordBack : Obligations.EncodeDecodeGivesWordBack := by
  intro op i hd
  by_cases h5 : fieldF op = 0x5#4
  · cases (decode_family5 h5).symm.trans hd
    rw [if_pos (.inl h5)]
    exact ⟨rfl, encXYN_zero_of_family h5⟩
  by_cases h9 : fieldF op = 0x9#4
  · cases (decode_family9 h9).symm.trans hd
    rw [if_pos (.inr h9)]
    exact ⟨rfl, encXYN_zero_of_family h9⟩
  rw [if_neg (not_or.2 ⟨h5, h9⟩)]
  exact encodesTo_of_decode h5 h9 hd

/-! ### The rejected words (R99) -/

theorem decode8_error_iff (op : Word) :
    decode8 op = .error (.unknown op) ↔ fieldN op ∈ [0x8#4, 0x9#4, 0xA#4, 0xB#4, 0xC#4, 0xD#4, 0xF#4] := by
  have nibbles : ∀ n : BitVec 4, n ∈ [0x8#4, 0x9#4, 0xA#4, 0xB#4, 0xC#4, 0xD#4, 0xF#4] ↔
      n ∉ [0x0#4, 0x1#4, 0x2#4, 0x3#4, 0x4#4, 0x5#4, 0x6#4, 0x7#4, 0xE#4] := by decide
  rw [nibbles]
  simp only [decode8]
  split_ifs <;> simp_all

theorem decodeE_error_iff (op : Word) :
    decodeE op = .error (.unknown op) ↔ fieldNN op ∉ [0x9E#8, 0xA1#8] := by
  simp only [decodeE]
  split_ifs <;> simp_all

theorem decodeF_error_iff (op : Word) :
    decodeF op = .error (.unknown op) ↔
      fieldNN op ∉ [0x07#8, 0x0A#8, 0x15#8, 0x18#8, 0x1E#8, 0x29#8, 0x33#8, 0x55#8, 0x65#8] := by
  simp only [decodeF]
  split_ifs <;> simp_all

/-- Settles O5: only families 8, E and F reject a word, each the words its second branch does not list. -/
theorem unknownWordsAreTheListedOnes : Obligations.UnknownWordsAreTheListedOnes := by
  intro op
  by_cases h8 : fieldF op = 0x8#4
  · simp only [decode_family8 h8, decode8_error_iff, h8]; simp
  by_cases hE : fieldF op = 0xE#4
  · simp only [decode_familyE hE, decodeE_error_iff, hE]; simp
  by_cases hF : fieldF op = 0xF#4
  · simp only [decode_familyF hF, decodeF_error_iff, hF]; simp
  obtain ⟨i, hi⟩ := decode_ok_of_family h8 hE hF
  simp [hi, h8, hE, hF]

/-- Settles O1: each word is evaluated. -/
theorem wordsDecodeAsTheTableSays : Obligations.WordsDecodeAsTheTableSays :=
  ⟨rfl, rfl, rfl, rfl, rfl, rfl, rfl, rfl, rfl, rfl, rfl, rfl, rfl⟩

end Sys2Proof
end

section
/-! What the execute step of each further instruction does, and its frame. -/

namespace Sys2Proof.Machine

variable (s : State)

/-! ### Frames of the state operations -/

theorem frame_refl (w : Writes) : Frame w s s := ⟨fun _ _ => rfl, fun _ _ => rfl, by simp⟩

theorem frame_setRegs {w : Vector Byte 16} {l : List Reg} (h : ∀ r, r ∉ l → (s.setRegs w).reg r = s.reg r) :
    Frame { regs := l } s (s.setRegs w) := ⟨h, fun a _ => readByte_setRegs s w a, by simp⟩

theorem frame_setStack_setPc (l : List Word) (a : Word) :
    Frame { pc := true, stack := true } s ((s.setStack l).setPc a) := by
  refine ⟨fun _ _ => rfl, fun _ _ => rfl, ?_⟩
  simp

theorem frame_setDt (b : Byte) : Frame { dt := true } s (s.setDt b) := by
  refine ⟨fun r _ => reg_setDt s b r, fun a _ => readByte_setDt s b a, ?_⟩
  simp

theorem frame_setSt (b : Byte) : Frame { st := true } s (s.setSt b) := by
  refine ⟨fun r _ => reg_setSt s b r, fun a _ => readByte_setSt s b a, ?_⟩
  simp

theorem frame_setDisp (d : Display) : Frame { disp := true } s (s.setDisp d) := by
  refine ⟨fun r _ => reg_setDisp s d r, fun a _ => readByte_setDisp s d a, ?_⟩
  simp

theorem frame_setDisp_setReg (d : Display) (x : Reg) (b : Byte) :
    Frame { regs := [x], disp := true } s ((s.setDisp d).setReg x b) := by
  refine ⟨fun r hr => ?_, fun _ _ => rfl, ?_⟩
  · exact reg_setReg_other (s.setDisp d) x r b (List.ne_of_not_mem_cons hr)
  · simp

theorem frame_setI_setReg (a : Word) (x : Reg) (b : Byte) :
    Frame { regs := [x], i := true } s ((s.setI a).setReg x b) := by
  refine ⟨fun r hr => ?_, fun _ _ => rfl, ?_⟩
  · exact reg_setReg_other (s.setI a) x r b (List.ne_of_not_mem_cons hr)
  · simp

theorem frame_tickTimers : Frame { dt := true, st := true } s s.tickTimers := by
  refine ⟨fun r _ => reg_tickTimers s r, fun a _ => readByte_tickTimers s a, ?_⟩
  simp

/-! ### A result with its flag (R22) -/

@[simp] theorem reg_setRegFlag_VF (d : Reg) (r flag : Byte) : (s.setRegFlag d r flag).reg VF = flag :=
  reg_setReg_same (s.setReg d r) VF flag

theorem reg_setRegFlag_dest {d : Reg} (h : d ≠ VF) (r flag : Byte) : (s.setRegFlag d r flag).reg d = r := by
  rw [State.setRegFlag, reg_setReg_other _ _ _ _ h, reg_setReg_same]

theorem frame_setRegFlag (d : Reg) (r flag : Byte) : Frame { regs := [d, VF] } s (s.setRegFlag d r flag) := by
  refine ⟨fun k hk => ?_, fun _ _ => rfl, by simp [State.setRegFlag]⟩
  simp only [List.mem_cons, List.not_mem_nil, or_false, not_or] at hk
  rw [State.setRegFlag, reg_setReg_other _ _ _ _ hk.2, reg_setReg_other _ _ _ _ hk.1]

/-! ### Faults (R305) -/

@[simp] theorem raiseIn_eq_faulted (i : Instr) (code : Fault) (info : Option Nat) :
    s.raiseIn i code info = s.faulted code i info := rfl

/-! ### The execute steps -/

theorem exec_sys (nnn : Addr) : exec (.sys nnn) s = .next s := rfl

theorem exec_cls : exec .cls s = .next (s.setDisp Display.clear) := rfl

theorem exec_ret_top {rest : List Word} {a : Word} (h : s.stack = rest ++ [a]) :
    exec .ret s = .next ((s.setStack rest).setPc a) := by
  simp [exec, execRet, State.dropTop, h]

theorem exec_ret_empty (h : s.stack = []) : exec .ret s = .next (s.faulted .stackUnderflow .ret none) := by
  simp [exec, execRet, h]

/-- What RET can do (R141). -/
theorem exec_ret_cases {s t : State} (h : exec .ret s = .next t) :
    (s.stack = [] ∧ t = s.faulted .stackUnderflow .ret none) ∨
    ∃ rest a, s.stack = rest ++ [a] ∧ t = (s.setStack rest).setPc a := by
  rcases List.eq_nil_or_concat' s.stack with hs | ⟨rest, a, hs⟩
  · cases (exec_ret_empty s hs).symm.trans h
    exact .inl ⟨hs, rfl⟩
  · cases (exec_ret_top s hs).symm.trans h
    exact .inr ⟨rest, a, hs, rfl⟩

theorem exec_call_room (nnn : Addr) (h : s.cfg.stackLimit ≠ some s.stack.length) :
    exec (.call nnn) s = .next ((s.setStack (s.stack ++ [s.pc])).setPc (zextAddr nnn)) := by
  simp [exec, execCall, (stackFull_none s).2 h, State.push]

theorem exec_call_full (nnn : Addr) (h : s.cfg.stackLimit = some s.stack.length) :
    exec (.call nnn) s = .next (s.faulted .stackOverflow (.call nnn) (some s.stack.length)) := by
  simp [exec, execCall, (stackFull_some s _).2 ⟨h, rfl⟩]

/-- What CALL can do (R143). -/
theorem exec_call_cases {s t : State} {nnn : Addr} (h : exec (.call nnn) s = .next t) :
    (s.cfg.stackLimit = some s.stack.length ∧ t = s.faulted .stackOverflow (.call nnn) (some s.stack.length)) ∨
    (s.cfg.stackLimit ≠ some s.stack.length ∧ t = (s.setStack (s.stack ++ [s.pc])).setPc (zextAddr nnn)) := by
  by_cases hs : s.cfg.stackLimit = some s.stack.length
  · cases (exec_call_full s nnn hs).symm.trans h
    exact .inl ⟨hs, rfl⟩
  · cases (exec_call_room s nnn hs).symm.trans h
    exact .inr ⟨hs, rfl⟩

theorem exec_jpOff (nnn : Addr) (x : Reg) : exec (.jpOff nnn x) s = .next (s.setPc (s.jumpTarget nnn x)) := rfl

theorem exec_seReg (x y : Reg) : exec (.seReg x y) s = .next (s.skipIf (s.reg x == s.reg y)) := rfl

theorem exec_sneReg (x y : Reg) : exec (.sneReg x y) s = .next (s.skipIf (s.reg x != s.reg y)) := rfl

theorem exec_addReg (x y : Reg) :
    exec (.addReg x y) s = .next (s.setRegFlag x (s.reg x + s.reg y) (carry (s.reg x) (s.reg y))) := rfl

theorem exec_sub (x y : Reg) :
    exec (.sub x y) s = .next (s.setRegFlag x (s.reg x - s.reg y) (notBorrow (s.reg x) (s.reg y))) := rfl

theorem exec_subn (x y : Reg) :
    exec (.subn x y) s = .next (s.setRegFlag y (s.reg y - s.reg x) (notBorrow (s.reg y) (s.reg x))) := rfl

theorem exec_shr (x y : Reg) :
    exec (.shr x y) s =
      .next (s.setRegFlag x (s.shiftSource x y >>> 1) (shiftedOutRight (s.shiftSource x y))) := rfl

theorem exec_shl (x y : Reg) :
    exec (.shl x y) s =
      .next (s.setRegFlag x (s.shiftSource x y <<< 1) (shiftedOutLeft (s.shiftSource x y))) := rfl

theorem exec_rnd (x : Reg) (nn : Byte) : exec (.rnd x nn) s = .next (s.setReg x (s.rand &&& nn)) := rfl

theorem exec_ldI (nnn : Addr) : exec (.ldI nnn) s = .next (s.setI (zextAddr nnn)) := rfl

theorem exec_addI (x : Reg) :
    exec (.addI x) s =
      .next ((s.setI (s.i + (s.reg x).setWidth 16)).setReg VF (indexOverflow s.i (s.reg x))) := rfl

theorem exec_ldB (x : Reg) :
    exec (.ldB x) s =
      .next (s.checked (.ldB x) (checkWrite s.i.toNat 3) (s.writeBlock s.i.toNat (bcdDigits (s.reg x)))) := rfl

theorem exec_stRegs (x : Reg) :
    exec (.stRegs x) s =
      .next (s.checked (.stRegs x) (checkWrite s.i.toNat (x.val + 1)) (s.writeBlock s.i.toNat (s.regsUpTo x))) := rfl

theorem exec_ldRegs (x : Reg) :
    exec (.ldRegs x) s =
      .next (s.checked (.ldRegs x) (checkRead s.i.toNat (x.val + 1)) (s.setRegs (s.loadedRegs s.i.toNat x))) := rfl

/-- A skip on a key number in range is the common skip (R165, R166). -/
theorem skipOnKey_key (ins : Instr) {x : Reg} {k : Fin 16} (c : Bool → Bool) (h : (s.reg x).toNat = k.val) :
    s.skipOnKey ins x c = s.skipIf (c (s.readKey k)) := by
  have in_range : (s.reg x).toNat < 16 := h ▸ k.isLt
  simp only [State.skipOnKey, dif_pos in_range, State.readKey]
  rw [show (⟨(s.reg x).toNat, in_range⟩ : Fin 16) = k from Fin.ext h]

/-- A skip on a greater number is a fault (R165, R166). -/
theorem skipOnKey_range (ins : Instr) {x : Reg} (c : Bool → Bool) (h : 0xF < (s.reg x).toNat) :
    s.skipOnKey ins x c = s.faulted .keyIndex ins (some (s.reg x).toNat) := by
  have out_of_range : ¬(s.reg x).toNat < 16 := by omega
  simp only [State.skipOnKey, dif_neg out_of_range, raiseIn_eq_faulted]

/-- What a skip on a key can do (R165, R166). -/
theorem skipOnKey_cases (ins : Instr) (x : Reg) (c : Bool → Bool) :
    (∃ k : Fin 16, (s.reg x).toNat = k.val ∧ s.skipOnKey ins x c = s.skipIf (c (s.readKey k))) ∨
    (0xF < (s.reg x).toNat ∧ s.skipOnKey ins x c = s.faulted .keyIndex ins (some (s.reg x).toNat)) := by
  rcases Nat.lt_or_ge (s.reg x).toNat 16 with h | h
  · exact .inl ⟨⟨_, h⟩, rfl, skipOnKey_key s ins c rfl⟩
  · exact .inr ⟨h, skipOnKey_range s ins c h⟩

theorem exec_skp (x : Reg) : exec (.skp x) s = .next (s.skipOnKey (.skp x) x id) := rfl

theorem exec_sknp (x : Reg) : exec (.sknp x) s = .next (s.skipOnKey (.sknp x) x not) := rfl

theorem exec_ldK_pressed (x : Reg) {k : Fin 16} (h : s.lowestKey = some k) :
    exec (.ldK x) s = .next (s.setReg x (keyByte k)) := by
  simp [exec, execLdK, h]

theorem exec_ldK_waits (x : Reg) (h : s.lowestKey = none) : exec (.ldK x) s = .next (s.setPc (s.pc - 2)) := by
  simp [exec, execLdK, h]

/-- What LD Vx, K can do (R271). -/
theorem exec_ldK_cases {s t : State} {x : Reg} (h : exec (.ldK x) s = .next t) :
    (s.lowestKey = none ∧ t = s.setPc (s.pc - 2)) ∨ ∃ k, s.lowestKey = some k ∧ t = s.setReg x (keyByte k) := by
  rcases hk : s.lowestKey with _ | k
  · cases (exec_ldK_waits s x hk).symm.trans h
    exact .inl ⟨rfl, rfl⟩
  · cases (exec_ldK_pressed s x hk).symm.trans h
    exact .inr ⟨k, rfl, rfl⟩

theorem exec_ldDT (x : Reg) : exec (.ldDT x) s = .next (s.setDt (s.reg x)) := rfl

theorem exec_ldST (x : Reg) : exec (.ldST x) s = .next (s.setSt (s.reg x)) := rfl

/-! ### The draw of a sprite (R251) -/

/-- The canvas after the sprite of DXYN is drawn on the display. -/
def State.canvas (s : State) (x y : Reg) (n : Count) : Canvas :=
  Canvas.sprite ⟨s.disp, false⟩ (s.originX x) (s.originY y) (s.readBlock s.i.toNat n.val)

/-- The state after a draw whose sprite can be read. -/
def State.drawn (s : State) (x y : Reg) (n : Count) : State :=
  (s.setDisp (s.canvas x y n).disp).setReg VF (flagByte (s.canvas x y n).collision)

theorem exec_drw (x y : Reg) (n : Count) :
    exec (.drw x y n) s = .next (s.checked (.drw x y n) (checkRead s.i.toNat n.val) (s.drawn x y n)) := rfl

theorem frame_drawn (x y : Reg) (n : Count) : Frame { regs := [VF], disp := true } s (s.drawn x y n) :=
  frame_setDisp_setReg s _ _ _

end Sys2Proof.Machine
end

section
/-! Control flow and skips (spec/41_control_flow.md, spec/42_conditional_skip.md). -/

namespace Sys2Proof.Machine

/-- Settles O13: the next state is the state itself. -/
theorem sysHasNoEffect : Obligations.SysHasNoEffect := fun nnn s => ⟨s, exec_sys s nnn, frame_refl s {}⟩

/-- Settles O14: one rule of RET for each of the two stacks. -/
theorem returnPopsTheStack : Obligations.ReturnPopsTheStack :=
  ⟨fun s rest a h => ⟨(s.setStack rest).setPc a, exec_ret_top s h, rfl, rfl, frame_setStack_setPc s rest a⟩,
    exec_ret_empty⟩

/-- Settles O16: one rule of CALL for a stack with room and one for a full stack. -/
theorem callPushesTheReturnAddress : Obligations.CallPushesTheReturnAddress :=
  ⟨fun nnn s h => ⟨_, exec_call_room s nnn h, zextAddr_toNat nnn, rfl, frame_setStack_setPc s _ _⟩,
    fun nnn s => exec_call_full s nnn⟩

/-- Settles O17: the target is the sum without a wrap, by `jumpTarget_toNat`. -/
theorem offsetJumpAddsTheRegister : Obligations.OffsetJumpAddsTheRegister := fun nnn x s =>
  ⟨_, exec_jpOff s nnn x, jumpTarget_toNat s nnn x, frame_setPc s _⟩

/-- Settles O19: both are the common skip, and neither family's decoding looks at the low nibble. -/
theorem registerSkipsCompare : Obligations.RegisterSkipsCompare :=
  ⟨fun x y s => ⟨exec_skips_iff (exec_seReg s x y) beq_iff_eq, exec_skips_iff (exec_sneReg s x y) bne_iff_ne⟩,
    fun _ => ⟨decode_family5, decode_family9⟩⟩

/-- Settles O20: a key number in range makes both the common skip, EXA1's on the negated key; a greater one is the fault. -/
theorem keySkipsTestTheKey : Obligations.KeySkipsTestTheKey := by
  intro x s
  refine ⟨fun k hk => ?_, fun h => ?_⟩
  · have skp : exec (.skp x) s = .next (s.skipIf (s.readKey k)) := by rw [exec_skp, skipOnKey_key s _ id hk, id]
    have sknp : exec (.sknp x) s = .next (s.skipIf (!s.readKey k)) := by rw [exec_sknp, skipOnKey_key s _ not hk]
    refine ⟨exec_skips_iff skp Iff.rfl, ?_⟩
    obtain ⟨t, hexec, hpc, hframe⟩ := exec_skips_iff sknp (Iff.of_eq (Bool.not_eq_true' (s.readKey k)))
    refine ⟨t, hexec, hpc.trans ?_, hframe⟩
    cases s.readKey k <;> rfl
  · rw [exec_skp, exec_sknp, skipOnKey_range s _ _ h, skipOnKey_range s _ _ h]
    exact ⟨rfl, rfl⟩

end Sys2Proof.Machine
end

section
/-! Registers and ALU (spec/43_register_alu.md). -/

namespace Sys2Proof.Machine

/-- What every instruction with a flag does (R186 to R190): if its next state is the result `r` with its flag, the destination
holds `r` unless it is VF, VF holds the flag, and nothing else changes. -/
theorem exec_writes_regFlag {s : State} {ins : Instr} {d : Reg} {r flag : Byte}
    (hexec : exec ins s = .next (s.setRegFlag d r flag)) :
    ∃ t, exec ins s = .next t ∧ (d ≠ VF → t.reg d = r) ∧ t.reg VF = flag ∧ Frame { regs := [d, VF] } s t :=
  ⟨_, hexec, fun h => reg_setRegFlag_dest s h r flag, reg_setRegFlag_VF s d r flag, frame_setRegFlag s d r flag⟩

/-- The 8-bit difference is the difference mod 256, also where it borrows. -/
theorem sub_toNat_int (a b : Byte) : ((a - b).toNat : Int) = ((a.toNat : Int) - b.toNat) % 256 := by
  have := a.isLt
  have := b.isLt
  rw [BitVec.toNat_sub]; omega

/-- Settles O24: the 8-bit sum with `carry` as its flag. -/
theorem addSetsCarry : Obligations.AddSetsCarry := by
  intro x y s
  obtain ⟨t, hexec, hdest, hflag, hframe⟩ := exec_writes_regFlag (exec_addReg s x y)
  refine ⟨t, hexec, fun hx => ?_, ?_, hframe⟩
  · rw [hdest hx, BitVec.toNat_add]
  · rw [hflag, carry_toNat]

/-- Settles O25: the 8-bit differences with `notBorrow` as their flag. -/
theorem subtractSetsStrictNotBorrow : Obligations.SubtractSetsStrictNotBorrow := by
  intro x y s
  obtain ⟨t, hsub, tdest, tflag, tframe⟩ := exec_writes_regFlag (exec_sub s x y)
  obtain ⟨u, hsubn, udest, uflag, uframe⟩ := exec_writes_regFlag (exec_subn s x y)
  refine ⟨⟨t, hsub, fun hx => ?_, ?_, tframe⟩, ⟨u, hsubn, fun hy => ?_, ?_, uframe⟩⟩
  · rw [tdest hx, sub_toNat_int]
  · rw [tflag, notBorrow_toNat]
  · rw [udest hy, sub_toNat_int]
  · rw [uflag, notBorrow_toNat]

/-- Settles O26: both shift the one source that the configuration selects. -/
theorem shiftsMoveTheSelectedSource : Obligations.ShiftsMoveTheSelectedSource := by
  intro x y s src hsrc
  have selected : s.shiftSource x y = src := hsrc.symm
  obtain ⟨t, hshr, tdest, tflag, tframe⟩ := exec_writes_regFlag (exec_shr s x y)
  obtain ⟨u, hshl, udest, uflag, uframe⟩ := exec_writes_regFlag (exec_shl s x y)
  refine ⟨⟨t, hshr, fun hx => ?_, ?_, tframe⟩, ⟨u, hshl, fun hx => ?_, ?_, uframe⟩⟩
  · rw [tdest hx, selected, BitVec.toNat_ushiftRight, Nat.shiftRight_one]
  · rw [tflag, selected, shiftedOutRight_toNat]
  · rw [udest hx, selected, BitVec.toNat_shiftLeft, Nat.shiftLeft_eq, pow_one, Nat.mul_comm]
  · rw [uflag, selected, shiftedOutLeft_toNat]

/-- Settles O27: a bit of RAND masked by NN is the bit of both. -/
theorem randomIsMasked : Obligations.RandomIsMasked := by
  intro x nn s
  obtain ⟨t, hexec, hreg, hframe⟩ := exec_writes_reg (exec_rnd s x nn)
  refine ⟨t, hexec, fun b => ?_, hframe⟩
  rw [hreg, BitVec.getLsbD_and]

end Sys2Proof.Machine
end

section
/-! The index register and the memory blocks (spec/44_index_and_memory.md, spec/20_memory.md). -/

namespace Sys2Proof.Machine

/-- Settles O28: I holds the zero-extended NNN. -/
theorem loadIndexTakesTheAddress : Obligations.LoadIndexTakesTheAddress := fun nnn s =>
  ⟨_, exec_ldI s nnn, zextAddr_toNat nnn, frame_setI s _⟩

/-- Settles O29: I holds the 16-bit sum, and the flag, which is written last, is of the full sum. -/
theorem addToIndexFlagsOverflow : Obligations.AddToIndexFlagsOverflow := by
  intro x s
  refine ⟨_, exec_addI s x, ?_, ?_, frame_setI_setReg s _ _ _⟩
  · have fits : (s.reg x).toNat % 2 ^ 16 = (s.reg x).toNat := Nat.mod_eq_of_lt (by omega)
    rw [setReg_i, setI_i, BitVec.toNat_add, BitVec.toNat_setWidth, fits]
  · rw [reg_setReg_same, indexOverflow_toNat]

/-- A byte of a block just written (R77). -/
theorem readByte_writeBlock_at (s : State) (a : Nat) (bs : List Byte) (k : Nat) (h : k < bs.length) :
    (s.writeBlock a bs).readByte (a + k) = bs[k] := by
  rw [readByte_writeBlock, dif_pos (by omega)]
  simp

/-- What both block stores do (R225, R226): an instruction whose effect behind its write check is a block of `n + 1` bytes
stores it where all of it may be written, and else records the fault of the check and changes nothing else. -/
theorem exec_block_store {s : State} {ins : Instr} {bs : List Byte} {n : Nat} (hn : n < 16)
    (hexec : exec ins s = .next (s.checked ins (checkWrite s.i.toNat (n + 1)) (s.writeBlock s.i.toNat bs))) :
    (0x200 ≤ s.i.toNat → s.i.toNat + n ≤ 0xFFF → exec ins s = .next (s.writeBlock s.i.toNat bs)) ∧
    (s.i.toNat < 0x200 → exec ins s = .next (s.faulted .reservedWrite ins (some s.i.toNat))) ∧
    (0xFFF < s.i.toNat + n → exec ins s = .next (s.faulted .writeRange ins (some (max s.i.toNat 0x1000)))) := by
  refine ⟨fun hlow hhigh => ?_, fun hlow => ?_, fun hhigh => ?_⟩
  · rw [hexec, (checkWrite_none _ _).2 (.inr ⟨hlow, hhigh⟩), checked_none]
  · rw [hexec, checkWrite_reserved _ _ n.succ_pos hlow (by omega), checked_some, raiseIn_eq_faulted]
  · rw [hexec, checkWrite_range _ _ n.succ_pos hhigh, checked_some, raiseIn_eq_faulted]

/-- Settles O31: FX33 is the block store of the three digits. -/
theorem bcdStoresThreeDigits : Obligations.BcdStoresThreeDigits := by
  intro x s
  obtain ⟨store, reserved, range⟩ := exec_block_store (n := 2) (by decide) (exec_ldB s x)
  refine ⟨fun hlow hhigh => ⟨_, store hlow hhigh, ?_, ?_, ?_, frame_writeBlock s _ _⟩, reserved, range⟩
  · have hundreds := readByte_writeBlock_at s s.i.toNat (bcdDigits (s.reg x)) 0 (Nat.succ_pos 2)
    rw [Nat.add_zero] at hundreds
    rw [hundreds]; simp [bcdDigits]
  · rw [readByte_writeBlock_at _ _ _ 1 (by simp [bcdDigits])]; simp [bcdDigits]
  · rw [readByte_writeBlock_at _ _ _ 2 (by simp [bcdDigits])]; simp [bcdDigits]

/-- The bytes FX55 stores are V0 to VX, in order (R226). -/
theorem readByte_writeBlock_regsUpTo (s : State) (a : Nat) {x k : Reg} (h : k ≤ x) :
    (s.writeBlock a (s.regsUpTo x)).readByte (a + k.val) = s.reg k := by
  have stored : k.val < (s.regsUpTo x).length := by rw [regsUpTo_length]; exact Nat.lt_succ_of_le h
  rw [readByte_writeBlock_at s a _ k.val stored, regsUpTo_getElem s x k.val stored k.isLt]

/-- Settles O32: FX55 is the block store of V0 to VX. -/
theorem blockStoreCopiesRegisters : Obligations.BlockStoreCopiesRegisters := by
  intro x s
  obtain ⟨store, reserved, range⟩ := exec_block_store x.isLt (exec_stRegs s x)
  refine ⟨fun hlow hhigh => ⟨_, store hlow hhigh, fun k => readByte_writeBlock_regsUpTo s _, ?_⟩, reserved, range⟩
  have frame := frame_writeBlock s s.i.toNat (s.regsUpTo x)
  rwa [regsUpTo_length] at frame

/-- A block load changes V0 to VX alone (R227). -/
theorem frame_loadedRegs (s : State) (a : Nat) (x : Reg) :
    Frame { regs := Instr.regWrites (.ldRegs x) } s (s.setRegs (s.loadedRegs a x)) := by
  refine frame_setRegs s fun r hr => ?_
  have above : ¬r ≤ x := by simpa [Instr.regWrites] using hr
  rw [reg_loadedRegs, if_neg above]

/-- Settles O33: behind its read check FX65 is the load of V0 to VX. -/
theorem blockLoadCopiesMemory : Obligations.BlockLoadCopiesMemory := by
  intro x s
  refine ⟨fun h => ⟨s.setRegs (s.loadedRegs s.i.toNat x), ?_, fun k hk => ?_, frame_loadedRegs s _ x, fun k hk => ?_⟩,
    fun h => ?_⟩
  · rw [exec_ldRegs, (checkRead_none _ _).2 (.inr h), checked_none]
  · rw [reg_loadedRegs, if_pos hk]
  · rw [reg_loadedRegs, if_neg (not_le.2 hk)]
  · rw [exec_ldRegs, checkRead_range _ _ x.val.succ_pos h, checked_some, raiseIn_eq_faulted]

/-- Settles O34: the two bytes at the fetch address are the two registers, and a fetched word is its bytes, the first the more
significant. -/
theorem storedBytesAreFetched : Obligations.StoredBytesAreFetched := by
  intro x k l s u hlow hhigh hkl hlx hexec
  obtain ⟨store, -, -⟩ := exec_block_store x.isLt (exec_stRegs s x)
  cases (store hlow hhigh).symm.trans hexec
  have hlx' : l.val ≤ x.val := hlx
  have hkx : k ≤ x := Fin.le_def.2 (by omega)
  have pc : (s.i + BitVec.ofNat 16 k.val).toNat = s.i.toNat + k.val := by
    rw [BitVec.toNat_add, BitVec.toNat_ofNat]; omega
  have first := readByte_writeBlock_regsUpTo s s.i.toNat hkx
  have second := readByte_writeBlock_regsUpTo s s.i.toNat hlx
  rw [hkl, ← Nat.add_assoc] at second
  refine ⟨_, fetchWord_some _ ?_, ?_⟩
  · rw [setPc_pc, pc]; omega
  · rw [wordOfBytes_toNat, readByte_setPc, readByte_setPc, setPc_pc, pc, first, second]

/-- Settles O35: each check is a comparison of the block's two ends. -/
theorem blockChecksAreByteChecks : Obligations.BlockChecksAreByteChecks := by
  intro a n _
  refine ⟨?_, ?_, fun f b h => ?_, fun f b h => ?_⟩
  · rw [checkRead_none]
    refine ⟨fun h k hk => by omega, fun h => ?_⟩
    rcases Nat.eq_zero_or_pos n with h0 | hpos
    · exact .inl h0
    · have := h (n - 1) (by omega)
      omega
  · rw [checkWrite_none]
    refine ⟨fun h k hk => by omega, fun h => ?_⟩
    rcases Nat.eq_zero_or_pos n with h0 | hpos
    · exact .inl h0
    · have := h 0 hpos
      have := h (n - 1) (by omega)
      omega
  · simp only [checkRead] at h
    split at h
    · cases h
      exact ⟨rfl, by omega, by omega, by omega, fun c _ _ => by omega⟩
    · cases h
  · simp only [checkWrite] at h
    split at h
    · cases h
      exact ⟨by omega, by omega, .inl ⟨rfl, by omega⟩, fun c _ _ => by omega⟩
    · split at h
      · cases h
        exact ⟨by omega, by omega, .inr ⟨rfl, by omega⟩, fun c _ _ => by omega⟩
      · cases h

end Sys2Proof.Machine
end

section
/-! The display (spec/45_display.md). -/

namespace Sys2Proof.Machine

/-- A cell read by the host (R35). -/
theorem readDisplay_getElem (s : State) (k : Nat) (h : k < 2048) :
    s.readDisplay[k] = pixelWord (s.cell ⟨k % 64, by omega⟩ ⟨k / 64, by omega⟩) := by
  simp only [State.readDisplay, Vector.getElem_ofFn]

theorem readDisplay_of_clear {s : State} (h : ∀ x y, s.cell x y = false) :
    s.readDisplay = Vector.replicate 2048 0x00000000#32 := by
  apply Vector.ext
  intro k hk
  rw [readDisplay_getElem s k hk, h, Vector.getElem_replicate]
  rfl

/-- Settles O36: CLS is the write of the clear display, and of the words that decode to CLS the only one is CLS's own. -/
theorem clearUnlightsEveryCell : Obligations.ClearUnlightsEveryCell := by
  refine ⟨fun s => ?_, fun op => ⟨fun hd => ?_, fun e => e ▸ rfl⟩⟩
  · have clear : ∀ x y, (s.setDisp Display.clear).cell x y = false := at_clear
    exact ⟨_, exec_cls s, clear, frame_setDisp s _, readDisplay_of_clear clear⟩
  · have h5 : fieldF op ≠ 0x5#4 := fun h => by cases (decode_family5 h).symm.trans hd
    have h9 : fieldF op ≠ 0x9#4 := fun h => by cases (decode_family9 h).symm.trans hd
    exact (encodesTo_of_decode h5 h9 hd).2.symm

/-- Settles O39: word y*64 + x lies in column x and row y. -/
theorem displayReadoutIsRowMajor : Obligations.DisplayReadoutIsRowMajor := by
  intro s x y
  have inside : y.val * 64 + x.val < 2048 := by omega
  have column : (⟨(y.val * 64 + x.val) % 64, by omega⟩ : Fin 64) = x := Fin.ext (by simp only; omega)
  have row : (⟨(y.val * 64 + x.val) / 64, by omega⟩ : Fin 32) = y := Fin.ext (by simp only; omega)
  rw [Vector.getElem?_eq_getElem inside, readDisplay_getElem s _ inside, column, row]
  rfl

/-! ### One draw -/

/-- The sprite of DXYN covers the cell, as a test. -/
def State.spriteHits (s : State) (x y : Reg) (n : Count) (cx : Fin 64) (cy : Fin 32) : Bool :=
  covers (s.originX x) (s.originY y) (s.readBlock s.i.toNat n.val) cx cy

section
variable (s : State) (x y : Reg) (n : Count)

theorem spriteHits_iff (cx : Fin 64) (cy : Fin 32) : s.spriteHits x y n cx cy = true ↔ s.spriteCovers x y n cx cy :=
  covers_spriteCovers s x y n cx cy

theorem spriteReadable_iff : s.spriteReadable n ↔ checkRead s.i.toNat n.val = none := (checkRead_none _ _).symm

theorem exec_drw_readable (h : s.spriteReadable n) : exec (.drw x y n) s = .next (s.drawn x y n) := by
  rw [exec_drw, (spriteReadable_iff s n).1 h, checked_none]

theorem exec_drw_unreadable (h : ¬ s.spriteReadable n) :
    exec (.drw x y n) s = .next (s.faulted .readRange (.drw x y n) (some (max s.i.toNat 0x1000))) := by
  obtain ⟨hn, hrange⟩ := not_or.1 h
  rw [exec_drw, checkRead_range _ _ (Nat.pos_of_ne_zero hn) (by omega), checked_some, raiseIn_eq_faulted]

/-- A draw toggles the cells the sprite covers (R251). -/
theorem cell_drawn (cx : Fin 64) (cy : Fin 32) :
    (s.drawn x y n).cell cx cy = (s.cell cx cy ^^ s.spriteHits x y n cx cy) :=
  at_sprite _ _ _ _ cx cy

/-- The flag of a draw is whether the sprite covers a lit cell (R251). -/
theorem reg_VF_drawn :
    (s.drawn x y n).reg VF = flagByte (s.canvas x y n).collision ∧
      ((s.canvas x y n).collision = true ↔ ∃ cx cy, s.spriteCovers x y n cx cy ∧ s.cell cx cy = true) := by
  refine ⟨reg_setReg_same _ _ _, (collision_sprite _ _ _ _).trans ?_⟩
  simp only [Bool.false_eq_true, false_or, covers_spriteCovers]
  rfl

theorem reg_VF_drawn_of_lit (h : ∃ cx cy, s.spriteCovers x y n cx cy ∧ s.cell cx cy = true) :
    (s.drawn x y n).reg VF = 1#8 := by
  obtain ⟨flag, collides⟩ := reg_VF_drawn s x y n
  rw [flag, collides.2 h]; rfl

theorem reg_VF_drawn_of_unlit (h : ¬ ∃ cx cy, s.spriteCovers x y n cx cy ∧ s.cell cx cy = true) :
    (s.drawn x y n).reg VF = 0#8 := by
  obtain ⟨flag, collides⟩ := reg_VF_drawn s x y n
  rw [flag, Bool.eq_false_iff.2 (mt collides.1 h)]; rfl

/-- A draw moves no sprite whose coordinate registers are not VF. -/
theorem spriteHits_drawn (hx : x ≠ VF) (hy : y ≠ VF) :
    (s.drawn x y n).spriteHits x y n = s.spriteHits x y n := by
  have column : (s.drawn x y n).originX x = s.originX x := by
    simp only [State.originX, State.drawn, reg_setReg_other _ _ _ _ hx, reg_setDisp]
  have row : (s.drawn x y n).originY y = s.originY y := by
    simp only [State.originY, State.drawn, reg_setReg_other _ _ _ _ hy, reg_setDisp]
  have bytes : ∀ k a, (s.drawn x y n).readBlock a k = s.readBlock a k := fun k => by
    induction k with
    | zero => exact fun _ => rfl
    | succ k ih => exact fun a => congrArg (s.readByte a :: ·) (ih (a + 1))
  funext cx cy
  simp only [State.spriteHits, column, row, bytes]
  rfl

end

/-- Settles O37: a readable sprite is drawn and toggles what it covers; an unreadable one is the fault of its read check. -/
theorem drawTogglesTheSpritesCells : Obligations.DrawTogglesTheSpritesCells := by
  intro x y n s
  refine ⟨fun h => ⟨_, exec_drw_readable s x y n h, fun cx cy => ⟨fun hc => ?_, fun hc => ?_⟩,
    reg_VF_drawn_of_lit s x y n, reg_VF_drawn_of_unlit s x y n, frame_drawn s x y n⟩, exec_drw_unreadable s x y n⟩
  · rw [cell_drawn, (spriteHits_iff s x y n cx cy).2 hc, Bool.xor_true]
  · rw [cell_drawn, Bool.eq_false_iff.2 (mt (spriteHits_iff s x y n cx cy).1 hc), Bool.xor_false]

/-- Settles O38: the second draw covers the same cells, so it toggles each of them back, and it finds lit what the first lit. -/
theorem drawingTwiceRestoresTheDisplay : Obligations.DrawingTwiceRestoresTheDisplay := by
  intro x y n s hx hy hread
  have same := spriteHits_drawn s x y n hx hy
  refine ⟨_, _, exec_drw_readable s x y n hread, exec_drw_readable (s.drawn x y n) x y n hread, fun cx cy => ?_, ?_⟩
  · rw [cell_drawn, same, cell_drawn, Bool.xor_assoc, Bool.xor_self, Bool.xor_false]
  · rintro ⟨cx, cy, hcov, hunlit⟩
    have hit := (spriteHits_iff s x y n cx cy).2 hcov
    refine reg_VF_drawn_of_lit _ x y n ⟨cx, cy, (spriteHits_iff _ x y n cx cy).1 ?_, ?_⟩
    · rw [same, hit]
    · rw [cell_drawn, hit, hunlit]; rfl

end Sys2Proof.Machine
end

section
/-! Timers and keypad (spec/46_timers_and_keypad.md). -/

namespace Sys2Proof.Machine

/-- The tick takes one from ST, saturating at 0, exactly if TICK is set (R31, R122). -/
theorem tickTimers_st_toNat (s : State) :
    s.tickTimers.st.toNat = if s.tick then s.st.toNat - 1 else s.st.toNat := by
  rw [tickTimers_st, apply_ite BitVec.toNat, countDown_toNat]

/-- Settles O7: each timer is counted down by `countDown`, which saturates at 0. -/
theorem tickCountsBothTimersDown : Obligations.TickCountsBothTimersDown := fun s =>
  ⟨tickTimers_dt_toNat s, tickTimers_st_toNat s, frame_tickTimers s⟩

/-- Settles O41: over a whole step the load comes after the tick, so nothing counts the loaded value down. -/
theorem delayTimerIsLoadedAfterTheTick : Obligations.DelayTimerIsLoadedAfterTheTick := by
  refine ⟨fun x s => ⟨_, exec_ldDT s x, rfl, frame_setDt s _⟩, fun x s hrunning hfetched => ?_⟩
  obtain ⟨u, hexec, hstep⟩ := step_of_fetched s (.ldDT x) hrunning hfetched
  cases hexec
  exact ⟨_, hstep, rfl⟩

/-- Settles O42: the sound output is the test of the loaded byte against 0. -/
theorem soundTimerIsLoaded : Obligations.SoundTimerIsLoaded := by
  refine ⟨fun x s => ⟨_, exec_ldST s x, rfl, frame_setSt s _, ?_⟩, fun x s hrunning hfetched => ?_⟩
  · rw [State.soundActive, setSt_st, bne_iff_ne]
    exact not_congr BitVec.toNat_inj.symm
  · obtain ⟨u, hexec, hstep⟩ := step_of_fetched s (.ldST x) hrunning hfetched
    cases hexec
    exact ⟨_, hstep, rfl⟩

/-- Settles O43: the keys are those of the state in a whole step too, and the rewind undoes the fetch's advance of PC. -/
theorem waitForKeyTakesTheLowest : Obligations.WaitForKeyTakesTheLowest := by
  refine ⟨fun x k s hk hlow => ?_, fun x s hnone => ?_, fun x s hrunning hfetched hnone => ?_⟩
  · exact ⟨_, exec_ldK_pressed s x ((lowestKey_some s k).2 ⟨hk, hlow⟩), by rw [reg_setReg_same, keyByte_toNat],
      frame_setReg s x _⟩
  · exact ⟨_, exec_ldK_waits s x ((lowestKey_none s).2 hnone), rfl, frame_setPc s _⟩
  · obtain ⟨u, hexec, hstep⟩ := step_of_fetched s (.ldK x) hrunning hfetched
    cases (exec_ldK_waits s.fetchedState x ((lowestKey_none s.fetchedState).2 hnone)).symm.trans hexec
    exact ⟨_, hstep, BitVec.add_sub_cancel s.pc 2, hrunning, fun _ => rfl, tickTimers_dt_toNat s,
      tickTimers_st_toNat s⟩

end Sys2Proof.Machine
end

section
/-! What an execute step can do, said once over all instructions: the tables of R23, R25, R27, R32, R38 and R67 as a
frame, the faults of R301, PC with the stack, and what it does not look at. -/

namespace Sys2Proof.Machine

/-- What the spec's tables let the execute step of an instruction change (R23, R25, R27, R32, R38, R67). -/
def State.writesOf (s : State) : Instr → Writes
  | .sys _ => {}
  | .cls => { disp := true }
  | .ret | .call _ => { pc := true, stack := true }
  | .jp _ | .jpOff _ _ | .seImm _ _ | .sneImm _ _ | .seReg _ _ | .sneReg _ _ | .skp _ | .sknp _ => { pc := true }
  | .ldImm x _ | .addImm x _ | .ldReg x _ | .orReg x _ | .andReg x _ | .xorReg x _ | .rnd x _ | .ldFromDT x =>
    { regs := [x] }
  | .addReg x _ | .sub x _ | .shr x _ | .shl x _ => { regs := [x, VF] }
  | .subn _ y => { regs := [y, VF] }
  | .drw _ _ _ => { regs := [VF], disp := true }
  | .ldK x => { regs := [x], pc := true }
  | .ldI _ | .ldF _ => { i := true }
  | .addI _ => { regs := [VF], i := true }
  | .ldDT _ => { dt := true }
  | .ldST _ => { st := true }
  | .ldB _ => { base := s.i.toNat, len := 3 }
  | .stRegs x => { base := s.i.toNat, len := x.val + 1 }
  | .ldRegs x => { regs := Instr.regWrites (.ldRegs x) }

theorem writesOf_regs (s : State) (i : Instr) : (s.writesOf i).regs = i.regWrites := by cases i <;> rfl

/-- Which instruction raises which fault, with its info (R301). -/
inductive State.Raises (s : State) : Instr → Fault → Option Nat → Prop where
  | ret : s.Raises .ret .stackUnderflow none
  | call (nnn : Addr) : s.Raises (.call nnn) .stackOverflow s.cfg.stackLimit
  | drw (x y : Reg) (n : Count) (a : Nat) : s.Raises (.drw x y n) .readRange (some a)
  | ldRegs (x : Reg) (a : Nat) : s.Raises (.ldRegs x) .readRange (some a)
  | ldB_range (x : Reg) (a : Nat) : s.Raises (.ldB x) .writeRange (some a)
  | ldB_reserved (x : Reg) : s.Raises (.ldB x) .reservedWrite (some s.i.toNat)
  | stRegs_range (x : Reg) (a : Nat) : s.Raises (.stRegs x) .writeRange (some a)
  | stRegs_reserved (x : Reg) : s.Raises (.stRegs x) .reservedWrite (some s.i.toNat)
  | skp (x : Reg) : s.Raises (.skp x) .keyIndex (some (s.reg x).toNat)
  | sknp (x : Reg) : s.Raises (.sknp x) .keyIndex (some (s.reg x).toNat)

/-- The two things an execute step can do: change what the tables let it change, or record a fault and change nothing else. -/
def Executes (i : Instr) (s t : State) : Prop :=
  Frame (s.writesOf i) s t ∨ ∃ code info, s.Raises i code info ∧ t = s.faulted code i info

theorem checkRead_some {a n : Nat} {f : Fault} {b : Nat} (h : checkRead a n = some (f, b)) : f = .readRange := by
  simp only [checkRead] at h
  split at h <;> cases h
  rfl

theorem checkWrite_some {a n : Nat} {f : Fault} {b : Nat} (h : checkWrite a n = some (f, b)) :
    f = .writeRange ∨ (f = .reservedWrite ∧ b = a) := by
  simp only [checkWrite] at h
  split at h
  · cases h; exact .inl rfl
  · split at h <;> cases h
    exact .inr ⟨rfl, rfl⟩

section
variable {s : State} {i : Instr} {e : State}

/-- An instruction behind a read check, which raises E_READ_RANGE (R73). -/
theorem executes_checkRead (a n : Nat) (hframe : Frame (s.writesOf i) s e)
    (hraises : ∀ b, s.Raises i .readRange (some b)) : Executes i s (s.checked i (checkRead a n) e) := by
  rcases checked_cases s i (checkRead a n) e with ⟨-, he⟩ | ⟨f, b, hbad, he⟩
  · rw [he]; exact .inl hframe
  · cases checkRead_some hbad
    exact .inr ⟨_, _, hraises b, he⟩

/-- An instruction behind the write check of a block at I, which raises E_WRITE_RANGE or, with I as info, E_RESERVED_WRITE
(R73). -/
theorem executes_checkWrite (n : Nat) (hframe : Frame (s.writesOf i) s e)
    (hrange : ∀ b, s.Raises i .writeRange (some b)) (hreserved : s.Raises i .reservedWrite (some s.i.toNat)) :
    Executes i s (s.checked i (checkWrite s.i.toNat n) e) := by
  rcases checked_cases s i (checkWrite s.i.toNat n) e with ⟨-, he⟩ | ⟨f, b, hbad, he⟩
  · rw [he]; exact .inl hframe
  · rcases checkWrite_some hbad with rfl | ⟨rfl, rfl⟩
    · exact .inr ⟨_, _, hrange b, he⟩
    · exact .inr ⟨_, _, hreserved, he⟩

/-- A skip on a key, which raises E_KEY_INDEX (R165, R166). -/
theorem executes_skipOnKey (x : Reg) (c : Bool → Bool) (hframe : ∀ b, Frame (s.writesOf i) s (s.skipIf b))
    (hraises : s.Raises i .keyIndex (some (s.reg x).toNat)) : Executes i s (s.skipOnKey i x c) := by
  rcases skipOnKey_cases s i x c with ⟨k, -, he⟩ | ⟨-, he⟩
  · rw [he]; exact .inl (hframe _)
  · exact .inr ⟨_, _, hraises, he⟩

end

/-- Every execute step changes what the tables let it change, or records its own fault and nothing else. -/
theorem exec_cases {i : Instr} {s t : State} (h : exec i s = .next t) : Executes i s t := by
  cases i
  case ret =>
    rcases exec_ret_cases h with ⟨-, ht⟩ | ⟨rest, a, -, rfl⟩
    · exact .inr ⟨_, _, .ret, ht⟩
    · exact .inl (frame_setStack_setPc s rest a)
  case call nnn =>
    rcases exec_call_cases h with ⟨full, ht⟩ | ⟨-, rfl⟩
    · exact .inr ⟨_, _, full ▸ .call nnn, ht⟩
    · exact .inl (frame_setStack_setPc s _ _)
  case ldK x =>
    refine .inl ?_
    rcases exec_ldK_cases h with ⟨-, rfl⟩ | ⟨k, -, rfl⟩
    · exact ⟨fun _ _ => rfl, fun _ _ => rfl, by simp [State.writesOf]⟩
    · exact ⟨fun r hr => reg_setReg_other s x r _ (List.ne_of_not_mem_cons hr), fun _ _ => rfl, by simp⟩
  all_goals cases h
  case drw x y n => exact executes_checkRead _ _ (frame_drawn s x y n) (.drw x y n)
  case ldRegs x => exact executes_checkRead _ _ (frame_loadedRegs s _ x) (.ldRegs x)
  case ldB x => exact executes_checkWrite 3 (frame_writeBlock s _ _) (.ldB_range x) (.ldB_reserved x)
  case stRegs x =>
    have frame := frame_writeBlock s s.i.toNat (s.regsUpTo x)
    rw [regsUpTo_length] at frame
    exact executes_checkWrite (x.val + 1) frame (.stRegs_range x) (.stRegs_reserved x)
  case skp x => exact executes_skipOnKey x id (frame_skipIf s) (.skp x)
  case sknp x => exact executes_skipOnKey x not (frame_skipIf s) (.sknp x)
  case sys => exact .inl (frame_refl s _)
  case cls => exact .inl (frame_setDisp s _)
  case jp | jpOff => exact .inl (frame_setPc s _)
  case seImm | sneImm | seReg | sneReg => exact .inl (frame_skipIf s _)
  case ldImm | addImm | ldReg | orReg | andReg | xorReg | rnd | ldFromDT => exact .inl (frame_setReg s _ _)
  case addReg | sub | shr | subn | shl => exact .inl (frame_setRegFlag s _ _ _)
  case ldI | ldF => exact .inl (frame_setI s _)
  case addI => exact .inl (frame_setI_setReg s _ _ _)
  case ldDT => exact .inl (frame_setDt s _)
  case ldST => exact .inl (frame_setSt s _)

/-- Whatever else it does, an execute step changes no more than the tables say and the fault record. -/
theorem exec_frame {i : Instr} {s t : State} (h : exec i s = .next t) :
    Frame (s.writesOf i) s { t with fault := s.fault } := by
  rcases exec_cases h with hframe | ⟨code, info, -, rfl⟩
  · obtain ⟨hreg, hmem, hi, hpc, hstack, hdt, hst, hdisp, hkey, -, hrest⟩ := hframe
    exact ⟨hreg, hmem, hi, hpc, hstack, hdt, hst, hdisp, hkey, rfl, hrest⟩
  · exact frame_refl s _

theorem frame_keeps_fault {w : Writes} {s t : State} (h : Frame w s t) : t.fault = s.fault := by
  obtain ⟨-, -, -, -, -, -, -, -, -, hfault, -⟩ := h
  exact hfault

/-! ### Obligations that the frame and the faults answer -/

/-- Settles O44: the registers of the frame are those of R23's table. -/
theorem registerWritesAreTheTables : Obligations.RegisterWritesAreTheTables := by
  intro i s t r h hr
  obtain ⟨hreg, -⟩ := exec_frame h
  exact hreg r (writesOf_regs s i ▸ hr)

/-- Settles O45: each clause is a field of the frame, whose table lists exactly the instructions the clause leaves out. -/
theorem onlyTheListedInstructionsWrite : Obligations.OnlyTheListedInstructionsWrite := by
  intro i s t h
  obtain ⟨-, hmem, hi, hpc, hstack, hdt, hst, -, -, -, hcfg, -, -, -, hdiags⟩ := exec_frame h
  refine ⟨fun hldI haddI hldF => hi ?_, fun hret hcall => hstack ?_, fun hldDT => hdt ?_, fun hldST => hst ?_,
    fun hldB hstRegs a => hmem a ?_, fun hjp hcall hret hjpOff hse hsne hser hsner hskp hsknp hldK => hpc ?_,
    hcfg, hdiags⟩
  · cases i
    case ldI a => exact absurd rfl (hldI a)
    case addI x => exact absurd rfl (haddI x)
    case ldF x => exact absurd rfl (hldF x)
    all_goals rfl
  · cases i
    case ret => exact absurd rfl hret
    case call a => exact absurd rfl (hcall a)
    all_goals rfl
  · cases i
    case ldDT x => exact absurd rfl (hldDT x)
    all_goals rfl
  · cases i
    case ldST x => exact absurd rfl (hldST x)
    all_goals rfl
  · cases i
    case ldB x => exact absurd rfl (hldB x)
    case stRegs x => exact absurd rfl (hstRegs x)
    all_goals exact .inr (Nat.zero_le a)
  · cases i
    case jp a => exact absurd rfl (hjp a)
    case call a => exact absurd rfl (hcall a)
    case ret => exact absurd rfl hret
    case jpOff a x => exact absurd rfl (hjpOff a x)
    case seImm x b => exact absurd rfl (hse x b)
    case sneImm x b => exact absurd rfl (hsne x b)
    case seReg x y => exact absurd rfl (hser x y)
    case sneReg x y => exact absurd rfl (hsner x y)
    case skp x => exact absurd rfl (hskp x)
    case sknp x => exact absurd rfl (hsknp x)
    case ldK x => exact absurd rfl (hldK x)
    all_goals rfl

/-- Settles O49: the step that records a fault is not the one that keeps a frame. -/
theorem faultsArePrecise : Obligations.FaultsArePrecise := by
  intro i s t h hfault
  rcases exec_cases h with hframe | ⟨code, info, -, ht⟩
  · exact absurd (frame_keeps_fault hframe) hfault
  · exact ⟨code, info, ht⟩

/-- Settles O50: the pairs are those of `State.Raises`. -/
theorem eachInstructionRaisesItsOwnFault : Obligations.EachInstructionRaisesItsOwnFault := by
  intro i s t r hrunning h hfault
  rcases exec_cases h with hframe | ⟨code, info, hraises, rfl⟩
  · rw [frame_keeps_fault hframe, hrunning] at hfault; cases hfault
  · cases hfault
    cases hraises
    case ret => exact .inl ⟨rfl, rfl, rfl⟩
    case call nnn => exact .inr (.inl ⟨⟨nnn, rfl⟩, rfl, rfl⟩)
    case drw x y n a => exact .inr (.inr (.inl ⟨.inl ⟨x, y, n, rfl⟩, rfl⟩))
    case ldRegs x a => exact .inr (.inr (.inl ⟨.inr ⟨x, rfl⟩, rfl⟩))
    case ldB_range x a => exact .inr (.inr (.inr (.inl ⟨.inl ⟨x, rfl⟩, rfl⟩)))
    case stRegs_range x a => exact .inr (.inr (.inr (.inl ⟨.inr ⟨x, rfl⟩, rfl⟩)))
    case ldB_reserved x => exact .inr (.inr (.inr (.inr (.inl ⟨.inl ⟨x, rfl⟩, rfl, rfl⟩))))
    case stRegs_reserved x => exact .inr (.inr (.inr (.inr (.inl ⟨.inr ⟨x, rfl⟩, rfl, rfl⟩))))
    case skp x => exact .inr (.inr (.inr (.inr (.inr ⟨x, .inl rfl, rfl, rfl⟩))))
    case sknp x => exact .inr (.inr (.inr (.inr (.inr ⟨x, .inr rfl, rfl, rfl⟩))))

/-! ### PC and the stack -/

theorem skipIf_pc_cases (s : State) (c : Bool) : (s.skipIf c).pc = s.pc ∨ (s.skipIf c).pc = s.pc + 2 := by
  rw [skipIf_pc]
  split
  · exact .inr rfl
  · exact .inl rfl

/-- What an execute step does to PC and the stack (R25, R30): it leaves the stack and keeps, skips, rewinds or loads PC;
or it returns; or it calls, the stack not being full. -/
def MovesPc (s t : State) : Prop :=
  (t.stack = s.stack ∧ (t.pc = s.pc ∨ t.pc = s.pc + 2 ∨ t.pc = s.pc - 2 ∨ t.pc.toNat ≤ 0x10FE)) ∨
  s.stack = t.stack ++ [t.pc] ∨
  (s.cfg.stackLimit ≠ some s.stack.length ∧ t.stack = s.stack ++ [s.pc] ∧ t.pc.toNat ≤ 0xFFF)

theorem movesPc_skipIf (s : State) (c : Bool) : MovesPc s (s.skipIf c) :=
  .inl ⟨rfl, (skipIf_pc_cases s c).imp_right .inl⟩

theorem movesPc_faulted (s : State) (code : Fault) (i : Instr) (info : Option Nat) :
    MovesPc s (s.faulted code i info) := .inl ⟨rfl, .inl rfl⟩

theorem movesPc_skipOnKey (s : State) (i : Instr) (x : Reg) (c : Bool → Bool) : MovesPc s (s.skipOnKey i x c) := by
  rcases skipOnKey_cases s i x c with ⟨k, -, he⟩ | ⟨-, he⟩
  · rw [he]; exact movesPc_skipIf s _
  · rw [he]; exact movesPc_faulted s _ _ _

theorem exec_movesPc {i : Instr} {s t : State} (h : exec i s = .next t) : MovesPc s t := by
  cases i
  case ret =>
    rcases exec_ret_cases h with ⟨-, rfl⟩ | ⟨rest, a, top, rfl⟩
    · exact movesPc_faulted s _ _ _
    · exact .inr (.inl top)
  case call nnn =>
    have target : (zextAddr nnn).toNat ≤ 0xFFF := by rw [zextAddr_toNat]; omega
    rcases exec_call_cases h with ⟨-, rfl⟩ | ⟨room, rfl⟩
    · exact movesPc_faulted s _ _ _
    · exact .inr (.inr ⟨room, rfl, target⟩)
  case jp nnn =>
    cases h
    have target : (zextAddr nnn).toNat ≤ 0x10FE := by rw [zextAddr_toNat]; omega
    exact .inl ⟨rfl, .inr (.inr (.inr target))⟩
  case jpOff nnn x =>
    cases h
    have target : (s.jumpTarget nnn x).toNat ≤ 0x10FE := by rw [jumpTarget_toNat]; omega
    exact .inl ⟨rfl, .inr (.inr (.inr target))⟩
  case ldK x =>
    rcases exec_ldK_cases h with ⟨-, rfl⟩ | ⟨k, -, rfl⟩
    · exact .inl ⟨rfl, .inr (.inr (.inl rfl))⟩
    · exact .inl ⟨rfl, .inl rfl⟩
  case skp x => cases h; exact movesPc_skipOnKey s _ x _
  case sknp x => cases h; exact movesPc_skipOnKey s _ x _
  case seImm | sneImm | seReg | sneReg => cases h; exact movesPc_skipIf s _
  all_goals
    obtain ⟨-, -, -, hpc, hstack, -⟩ := exec_frame h
    exact .inl ⟨hstack rfl, .inl (hpc rfl)⟩

/-! ### What no execute step looks at -/

/-- The state seen through functions of ST, the display and the keypad. -/
def State.remap (s : State) (f : Byte → Byte) (g : Display → Display) (k : Vector Bool 16 → Vector Bool 16) :
    State :=
  { s with st := f s.st, disp := g s.disp, key := k s.key }

section
variable (s : State) (f : Byte → Byte) (g : Display → Display) (k : Vector Bool 16 → Vector Bool 16)

theorem readBlock_remap (n : Nat) : ∀ a, (s.remap f g k).readBlock a n = s.readBlock a n := by
  induction n with
  | zero => exact fun _ => rfl
  | succ n ih => exact fun a => congrArg (s.readByte a :: ·) (ih (a + 1))

theorem writeBlock_remap (bs : List Byte) : ∀ (s : State) a,
    (s.remap f g k).writeBlock a bs = (s.writeBlock a bs).remap f g k := by
  induction bs with
  | nil => exact fun _ _ => rfl
  | cons b bs ih => exact fun s a => ih (s.writeByte a b) (a + 1)

theorem checked_remap (ins : Instr) (bad : Option (Fault × Nat)) (e : State) :
    (s.remap f g k).checked ins bad (e.remap f g k) = (s.checked ins bad e).remap f g k := by
  rcases bad with _ | _ <;> rfl

theorem skipOnKey_remap (ins : Instr) (x : Reg) (c : Bool → Bool) :
    (s.remap f g id).skipOnKey ins x c = (s.skipOnKey ins x c).remap f g id := by
  rcases skipOnKey_cases s ins x c with ⟨k, hk, he⟩ | ⟨hrange, he⟩
  · rw [he, skipOnKey_key (s.remap f g id) ins c hk]; rfl
  · rw [he, skipOnKey_range (s.remap f g id) ins c hrange]; rfl

end

/-- An execute step neither reads nor writes ST, the display and the keypad but for the instructions of R32, R33 and R36:
it commutes with functions of the three, those being the identity of which the instruction makes use. -/
theorem exec_remap {f : Byte → Byte} {g : Display → Display} {k : Vector Bool 16 → Vector Bool 16} {i : Instr}
    {s t : State} (hst : f = id ∨ ∀ x, i ≠ .ldST x) (hdisp : g = id ∨ (i ≠ .cls ∧ ∀ x y n, i ≠ .drw x y n))
    (hkey : k = id ∨ ∀ x, i ≠ .skp x ∧ i ≠ .sknp x ∧ i ≠ .ldK x) (h : exec i s = .next t) :
    exec i (s.remap f g k) = .next (t.remap f g k) := by
  cases i
  case ldST x =>
    obtain rfl := hst.resolve_right fun hx => hx x rfl
    cases h; rfl
  case cls =>
    obtain rfl := hdisp.resolve_right fun hx => hx.1 rfl
    cases h; rfl
  case drw x y n =>
    obtain rfl := hdisp.resolve_right fun hx => hx.2 x y n rfl
    cases (exec_drw s x y n).symm.trans h
    have canvas : (s.remap f id k).canvas x y n = s.canvas x y n := by
      simp only [State.canvas, readBlock_remap]; rfl
    have drawn : (s.remap f id k).drawn x y n = (s.drawn x y n).remap f id k := by
      simp only [State.drawn, canvas]; rfl
    rw [exec_drw, drawn, ← checked_remap]; rfl
  case skp x =>
    obtain rfl := hkey.resolve_right fun hx => (hx x).1 rfl
    cases h
    rw [exec_skp, skipOnKey_remap]
  case sknp x =>
    obtain rfl := hkey.resolve_right fun hx => (hx x).2.1 rfl
    cases h
    rw [exec_sknp, skipOnKey_remap]
  case ldK x =>
    obtain rfl := hkey.resolve_right fun hx => (hx x).2.2 rfl
    have keys : (s.remap f g id).lowestKey = s.lowestKey := rfl
    rcases exec_ldK_cases h with ⟨hk, rfl⟩ | ⟨j, hk, rfl⟩
    · exact exec_ldK_waits _ x (keys.trans hk)
    · exact exec_ldK_pressed _ x (keys.trans hk)
  case ret =>
    rcases exec_ret_cases h with ⟨empty, rfl⟩ | ⟨rest, a, top, rfl⟩
    · exact exec_ret_empty _ empty
    · exact exec_ret_top _ top
  case call nnn =>
    rcases exec_call_cases h with ⟨full, rfl⟩ | ⟨room, rfl⟩
    · exact exec_call_full _ nnn full
    · exact exec_call_room _ nnn room
  case ldB x => cases h; rw [exec_ldB, ← checked_remap, ← writeBlock_remap]; rfl
  case stRegs x => cases h; rw [exec_stRegs, ← checked_remap, ← writeBlock_remap]; rfl
  case ldRegs x => cases h; rw [exec_ldRegs, ← checked_remap]; rfl
  all_goals cases h; rfl

/-- Settles O48: ST is changed by a function, which every instruction commutes with but FX18, and that one overwrites it. -/
theorem soundTimerIsNeverRead : Obligations.SoundTimerIsNeverRead := by
  intro i s b
  obtain ⟨t, h⟩ := exec_next i s
  by_cases hi : ∃ x, i = .ldST x
  · obtain ⟨x, rfl⟩ := hi
    exact ⟨_, _, exec_ldST s x, exec_ldST _ x, rfl⟩
  · have other := exec_remap (f := fun _ => b) (.inr (not_exists.1 hi)) (.inl rfl) (.inl rfl) h
    exact ⟨t, _, h, other, rfl⟩

end Sys2Proof.Machine
end

section
/-! A whole step (spec/40_cycle.md, spec/60_exceptions.md). -/

namespace Sys2Proof.Machine

variable {s t : State}

/-! ### The four kinds of step, beside `step_of_fetched` -/

theorem step_of_fault (h : s.fault ≠ none) : step s = .next s := by
  obtain ⟨r, hr⟩ := Option.ne_none_iff_exists'.1 h
  simp only [step, cycle, hr]

theorem step_of_fetchFault (hf : s.fault = none) (h : 0xFFE < s.pc.toNat) :
    step s = .next (s.tickTimers.raise .fetchRange s.pc none (some s.pc.toNat)).drawInputs := by
  have none_fetched : s.tickTimers.fetchWord = none := fetchWord_none _ h
  simp only [step, cycle, hf, runCycle, none_fetched, endCycle]
  rfl

theorem step_of_unknown {op : Word} {r : Reject} (hf : s.fault = none) (hw : s.fetchWord = some op)
    (hd : decode op = .error r) : step s = .next (s.fetchedState.report (.unknownOpcode s.pc op)).drawInputs := by
  have fetched : s.tickTimers.fetchWord = some op := hw
  have address : s.fetchedState.pc - 2 = s.pc := BitVec.add_sub_cancel s.pc 2
  simp only [step, cycle, hf, runCycle, fetched, execWord, hd, ← address]
  rfl

theorem step_of_decoded {op : Word} {i : Instr} (hf : s.fault = none) (hw : s.fetchWord = some op)
    (hd : decode op = .ok i) : ∃ u, exec i s.fetchedState = .next u ∧ step s = .next u.drawInputs :=
  step_of_fetched s i hf ((fetched_iff s i).2 ⟨op, hw, hd⟩)

theorem fetchWord_isSome (h : s.fetchWord ≠ none) : s.pc.toNat ≤ 0xFFE := by
  by_contra hp
  exact h (fetchWord_none s (by omega))

/-- The word that the two bytes at PC make is the one fetched (R75, R123). -/
theorem fetchWord_of_toNat {op : Word} (hpc : s.pc.toNat ≤ 0xFFE)
    (hop : op.toNat = (s.readByte s.pc.toNat).toNat * 256 + (s.readByte (s.pc.toNat + 1)).toNat) :
    s.fetchWord = some op := by
  rw [fetchWord_some s hpc]
  exact congrArg some (BitVec.eq_of_toNat_eq ((wordOfBytes_toNat _ _).trans hop.symm))

/-- Settles O6: the two bytes are the fetched word, and the fetched state is the ticked one with PC advanced. -/
theorem stepRunsTheDecodedInstruction : Obligations.StepRunsTheDecodedInstruction :=
  fun _ _ _ hf hpc hop hd => step_of_decoded hf (fetchWord_of_toNat hpc hop) hd

/-- Settles O8: the step on a PC that nothing is fetched from. -/
theorem fetchPastMemoryFaults : Obligations.FetchPastMemoryFaults := fun _ => step_of_fetchFault

/-- Settles O9: the step on the fetched word, the UNKNOWN one. -/
theorem unknownWordOnlyReports : Obligations.UnknownWordOnlyReports :=
  fun _ _ hf hpc hop hd => step_of_unknown hf (fetchWord_of_toNat hpc hop) hd

/-! ### What a step reports -/

/-- The outputs of a cycle that reported `d` (R129). -/
theorem cycleOutputs_of_append {d : List Diag} (h : t.diags = s.diags ++ d) : cycleOutputs s t = (d.head?, t.fault) := by
  rw [cycleOutputs, h, List.drop_left]
  rfl

theorem exec_diags {i : Instr} (h : exec i s = .next t) : t.diags = s.diags := by
  obtain ⟨-, -, -, -, -, -, -, hdiags⟩ := onlyTheListedInstructionsWrite i s t h
  exact hdiags

/-- Settles O51: of the four kinds of step only the one on an UNKNOWN word reports. -/
theorem onlyUnknownWordsAreReported : Obligations.OnlyUnknownWordsAreReported := by
  intro s t h
  have silent : t.diags = s.diags → t.diags = s.diags ∧ (cycleOutputs s t).1 = none :=
    fun hd => ⟨hd, congrArg Prod.fst (cycleOutputs_of_append (hd.trans (List.append_nil _).symm))⟩
  rcases step_cases h with ⟨-, rfl⟩ | ⟨-, -, rfl⟩ | ⟨op, r, hf, hw, hd, -⟩ | ⟨op, i, u, -, -, -, hexec, rfl⟩
  · exact .inl (silent rfl)
  · exact .inl (silent rfl)
  · cases decode_error op r hd
    cases (step_of_unknown hf hw hd).symm.trans h
    exact .inr ⟨op, hw, hd, rfl, congrArg Prod.fst (cycleOutputs_of_append (d := [_]) rfl)⟩
  · have quiet : u.diags = s.fetchedState.diags := exec_diags hexec
    exact .inl (silent quiet)

/-! ### The cycle as a function of the record (R20, R120) -/

/-- The state without the model's own counter and events, which `recordCycle` runs on (log entries 2 and 4). -/
def State.bare (s : State) : State := { s with draws := 0, diags := [] }

theorem recordCycle_eq (h : step s.bare = .next t) :
    recordCycle s.cfg s.tick s.rand s.toRecord = (t.toRecord, cycleOutputs s.bare t) := by
  have h' : cycle s.bare = .next t := h
  simp only [State.bare] at h'
  simp only [recordCycle, h']
  rfl

/-- A step is the cycle on the record if the same step of the bare state leaves the same record and reports the same `d`. -/
theorem step_eq_recordCycle {v : State} (d : List Diag) (ht : step s = .next t) (hv : step s.bare = .next v)
    (hrecord : v.toRecord = t.toRecord) (htd : t.diags = s.diags ++ d) (hvd : v.diags = d) :
    ∃ t, step s = .next t ∧ (t.toRecord, cycleOutputs s t) = recordCycle s.cfg s.tick s.rand s.toRecord := by
  refine ⟨t, ht, ?_⟩
  rw [recordCycle_eq hv, cycleOutputs_of_append htd, cycleOutputs_of_append (s := s.bare) hvd, hrecord]

/-- Settles O11: each kind of step of a state is the same kind of step of its bare state, with the same record and report. -/
theorem everyStepAnswersNext : Obligations.EveryStepAnswersNext := by
  intro s
  have silent : s.diags = s.diags ++ [] := (List.append_nil _).symm
  by_cases hf : s.fault = none
  · rcases hw : s.fetchWord with _ | op
    · have hpc : 0xFFE < s.pc.toNat := by
        by_contra hp
        rw [fetchWord_some s (by omega)] at hw; cases hw
      exact step_eq_recordCycle [] (step_of_fetchFault hf hpc) (step_of_fetchFault (s := s.bare) hf hpc) rfl silent rfl
    · rcases hd : decode op with r | i
      · exact step_eq_recordCycle [_] (step_of_unknown hf hw hd) (step_of_unknown (s := s.bare) hf hw hd) rfl rfl rfl
      · obtain ⟨u, hexec, hstep⟩ := step_of_decoded hf hw hd
        obtain ⟨v, vexec, vstep⟩ := step_of_decoded (s := s.bare) hf hw hd
        cases (exec_events 0 [] hexec).symm.trans vexec
        have quiet : u.diags = s.fetchedState.diags := exec_diags hexec
        exact step_eq_recordCycle [] hstep vstep rfl (quiet.trans silent) rfl
  · exact step_eq_recordCycle [] (step_of_fault hf) (step_of_fault (s := s.bare) hf) rfl silent rfl

/-! ### A faulted core, and an ended run -/

theorem run_of_fault (h : s.fault ≠ none) (k : Nat) : Host.Core.run core k s = .next s := by
  induction k with
  | zero => rfl
  | succ k ih =>
    have hstep : core.step s = .next s := step_of_fault h
    simp only [Host.Core.run, hstep, ih]

theorem load_eq (s : State) (rom : List Byte) : s.load rom = { s.clear with mem := (s.load rom).mem } :=
  writeBlock_eq rom s.clear 0x200

theorem load_fault (s : State) (rom : List Byte) : (s.load rom).fault = none := by rw [load_eq]; rfl

/-- Settles O10: the run by induction on the number of cycles; a load clears the fault. -/
theorem faultedCoreStaysUntilLoad : Obligations.FaultedCoreStaysUntilLoad := by
  intro s r hr
  have faulted : s.fault ≠ none := by rw [hr]; exact Option.some_ne_none r
  refine ⟨run_of_fault faulted, hr, fun _ _ => hr, fun _ _ => hr, fun rom hrom => ?_⟩
  rw [resetAndLoad_accepted s rom hrom]
  exact load_fault s rom

/-- Two states with the same PC and the same memory bytes fetch the same. -/
theorem fetched_congr (hpc : t.pc = s.pc) (hmem : ∀ a, t.readByte a = s.readByte a) : t.fetched = s.fetched := by
  simp only [State.fetched, State.fetchWord, hpc, hmem]

/-- Settles O52: the jump leads back to the PC it was fetched from, and the memory it was fetched from is as it was. -/
theorem endedRunStaysEnded : Obligations.EndedRunStaysEnded := by
  rintro s ⟨hf, nnn, hfetched, htarget⟩
  obtain ⟨u, hexec, hstep⟩ := step_of_fetched s (.jp nnn) hf hfetched
  cases hexec
  have same_pc : ((s.fetchedState.setPc (zextAddr nnn)).drawInputs).pc = s.pc := htarget
  refine ⟨_, hstep, ⟨hf, nnn, ?_, htarget.trans same_pc.symm⟩, same_pc, fun _ => rfl, rfl, rfl,
    rfl, rfl, rfl, rfl, fun _ => rfl⟩
  rw [fetched_congr same_pc fun _ => rfl, hfetched]

/-! ### What a whole step keeps -/

/-- The parts of the state that a step changes outside its execute step: PC, the timers, the fault record, the inputs and the
events. -/
def State.withCycleParts (s : State) (pc : Word) (dt st : Byte) (fault : Option FaultRecord) (tick : Bool) (rand : Byte)
    (draws : Nat) (diags : List Diag) : State :=
  { s with pc := pc, dt := dt, st := st, fault := fault, tick := tick, rand := rand, draws := draws, diags := diags }

/-- A property that does not look at those parts and that every execute step keeps is kept by every step. -/
theorem step_keeps {P : State → Prop}
    (hparts : ∀ s pc dt st fault tick rand draws diags, P s → P (s.withCycleParts pc dt st fault tick rand draws diags))
    (hexec : ∀ i s t, exec i s = .next t → P s → P t) (h : step s = .next t) (hs : P s) : P t := by
  rcases step_cases h with ⟨-, rfl⟩ | ⟨-, -, rfl⟩ | ⟨op, r, -, -, -, rfl⟩ | ⟨op, i, u, -, -, -, hu, rfl⟩
  · exact hs
  · exact hparts s _ _ _ _ _ _ _ _ hs
  · exact hparts s _ _ _ _ _ _ _ _ hs
  · have hfetched : P s.fetchedState := hparts s _ _ _ _ _ _ _ _ hs
    exact hparts u _ _ _ _ _ _ _ _ (hexec i _ u hu hfetched)

/-- A step of a running core ends with the execute step of the fetched instruction, or with the ticked timers and the display
as it was. -/
theorem step_running_cases (hf : s.fault = none) (h : step s = .next t) :
    (t.dt = s.tickTimers.dt ∧ t.st = s.tickTimers.st ∧ t.disp = s.disp) ∨
    ∃ i u, s.fetched = some i ∧ exec i s.fetchedState = .next u ∧ t = u.drawInputs := by
  rcases step_cases h with ⟨hfault, -⟩ | ⟨-, -, rfl⟩ | ⟨op, r, -, -, -, rfl⟩ | ⟨op, i, u, -, hw, hd, hexec, rfl⟩
  · exact absurd hf hfault
  · exact .inl ⟨rfl, rfl, rfl⟩
  · exact .inl ⟨rfl, rfl, rfl⟩
  · exact .inr ⟨i, u, (fetched_iff s i).2 ⟨op, hw, hd⟩, hexec, rfl⟩

/-- Settles O12: the execute step starts from the ticked timers, and only FX15 and FX18 write one. -/
theorem timersMoveOnlyByTickOrLoad : Obligations.TimersMoveOnlyByTickOrLoad := by
  intro s t hf h
  rw [← tickTimers_dt_toNat, ← tickTimers_st_toNat]
  rcases step_running_cases hf h with ⟨hdt, hst, -⟩ | ⟨i, u, hfetched, hexec, rfl⟩
  · rw [hdt, hst]
    exact ⟨fun _ => rfl, fun _ => rfl⟩
  · obtain ⟨-, -, hdt, hst, -⟩ := onlyTheListedInstructionsWrite i s.fetchedState u hexec
    exact ⟨fun hi => congrArg BitVec.toNat (hdt fun x e => hi x (e ▸ hfetched)),
      fun hi => congrArg BitVec.toNat (hst fun x e => hi x (e ▸ hfetched))⟩

theorem exec_key {i : Instr} (h : exec i s = .next t) : t.key = s.key := by
  obtain ⟨-, -, -, -, -, -, -, -, hkey, -⟩ := exec_frame h
  exact hkey

theorem step_key (h : step s = .next t) : t.key = s.key :=
  step_keeps (P := fun u => u.key = s.key) (fun _ _ _ _ _ _ _ _ _ hs => hs)
    (fun _ _ _ hexec hs => (exec_key hexec).trans hs) h rfl

theorem load_readKey (s : State) (rom : List Byte) (j : Fin 16) : (s.load rom).readKey j = false := by
  rw [load_eq]
  simp [State.readKey, State.pressed, State.clear]

/-- Settles O46: the last clause changes the keypad by a constant function, which `exec_remap` carries through. -/
theorem keypadIsTheHostsToWrite : Obligations.KeypadIsTheHostsToWrite := by
  refine ⟨fun i s t => exec_key, fun s t => step_key, fun s k j b => ?_, fun s rom j hrom => ?_,
    fun i s t keys hi h => ?_⟩
  · simp only [State.writeKey, State.readKey, State.pressed, setKey_key, Vector.getElem_set, Fin.ext_iff, eq_comm]
  · rw [resetAndLoad_accepted s rom hrom]
    exact load_readKey s rom j
  · exact exec_remap (f := id) (g := id) (k := fun _ => keys) (.inl rfl) (.inl rfl) (.inr hi) h

theorem exec_disp {i : Instr} (hcls : i ≠ .cls) (hdrw : ∀ x y n, i ≠ .drw x y n) (h : exec i s = .next t) :
    t.disp = s.disp := by
  obtain ⟨-, -, -, -, -, -, -, hdisp, -⟩ := exec_frame h
  refine hdisp ?_
  cases i
  case cls => exact absurd rfl hcls
  case drw x y n => exact absurd rfl (hdrw x y n)
  all_goals rfl

theorem load_cell (s : State) (rom : List Byte) (x : Fin 64) (y : Fin 32) : (s.load rom).cell x y = false := by
  rw [load_eq]
  exact at_clear x y

/-- Settles O47: as O46, for the display; over a step the tick and the fetch leave it too. -/
theorem displayIsWrittenByClsAndDrwOnly : Obligations.DisplayIsWrittenByClsAndDrwOnly := by
  refine ⟨fun i s t hcls hdrw h => ⟨exec_disp hcls hdrw h, fun d => ?_⟩, fun s t hf h hcls hdrw => ?_,
    fun s rom x y hrom => ?_, fun _ _ _ => rfl, fun _ _ _ => rfl⟩
  · exact exec_remap (f := id) (g := fun _ => d) (k := id) (.inl rfl) (.inr ⟨hcls, hdrw⟩) (.inl rfl) h
  · rcases step_running_cases hf h with ⟨-, -, hdisp⟩ | ⟨i, u, hfetched, hexec, rfl⟩
    · exact hdisp
    · have kept : u.disp = s.fetchedState.disp :=
        exec_disp (fun e => hcls (e ▸ hfetched)) (fun x y n e => hdrw x y n (e ▸ hfetched)) hexec
      exact kept
  · rw [resetAndLoad_accepted s rom hrom]
    exact load_cell s rom x y

end Sys2Proof.Machine
end

section
/-! Invariants over steps and host operations, and the load (spec/10_state.md, spec/20_memory.md,
spec/70_reset_and_hazards.md). -/

namespace Sys2Proof.Machine

variable {s t : State}

/-! ### Host operations -/

theorem load_cfg (s : State) (rom : List Byte) : (s.load rom).cfg = s.cfg := by rw [load_eq]; rfl
theorem load_pc (s : State) (rom : List Byte) : (s.load rom).pc = 0x200#16 := by rw [load_eq]; rfl
theorem load_stack (s : State) (rom : List Byte) : (s.load rom).stack = [] := by rw [load_eq]; rfl

/-- A host operation is a load of at most 3584 bytes, or changes no more than a key or the next inputs. -/
theorem host_cases (s : State) (op : HostOp) :
    (∃ rom : List Byte, rom.length ≤ 3584 ∧ s.host op = s.load rom) ∨
    (∃ keys tick rand, s.host op = { s with key := keys, tick := tick, rand := rand }) := by
  cases op with
  | resetAndLoad rom =>
    cases rom with
    | none => exact .inr ⟨_, _, _, rfl⟩
    | some bytes =>
      by_cases hlen : 3584 < bytes.length
      · refine .inr ⟨s.key, s.tick, s.rand, ?_⟩
        simp only [State.host, State.resetAndLoad, if_pos hlen]
      · refine .inl ⟨bytes, by omega, ?_⟩
        rw [State.host, resetAndLoad_accepted s bytes (by omega)]
  | writeKey k pressed => exact .inr ⟨_, _, _, rfl⟩
  | supply tick rand => exact .inr ⟨_, _, _, rfl⟩

/-- A property that does not look at keys and inputs and that a load establishes is kept by every host operation. -/
theorem host_keeps {P : State → Prop} (s : State) (op : HostOp)
    (hinputs : ∀ keys tick rand, P s → P { s with key := keys, tick := tick, rand := rand })
    (hload : ∀ rom : List Byte, rom.length ≤ 3584 → P (s.load rom)) (hs : P s) : P (s.host op) := by
  rcases host_cases s op with ⟨rom, hlen, e⟩ | ⟨keys, tick, rand, e⟩
  · rw [e]; exact hload rom hlen
  · rw [e]; exact hinputs keys tick rand hs

/-! ### Configuration and memory -/

theorem exec_cfg {i : Instr} (h : exec i s = .next t) : t.cfg = s.cfg := (exec_memory h).1

/-- Settles O58: no execute step and no load writes the configuration. -/
theorem configurationIsFixed : Obligations.ConfigurationIsFixed :=
  ⟨fun s _ h => step_keeps (P := fun u => u.cfg = s.cfg) (fun _ _ _ _ _ _ _ _ _ hs => hs)
      (fun _ _ _ hexec hs => (exec_cfg hexec).trans hs) h rfl,
    fun s op => host_keeps (P := fun u => u.cfg = s.cfg) s op (fun _ _ _ hs => hs) (fun rom _ => load_cfg s rom) rfl⟩

/-- An execute step writes no byte below 0x200: the one block it may write has passed its check (R62). -/
theorem exec_readByte_reserved {i : Instr} (h : exec i s = .next t) {a : Nat} (ha : a < 0x200) :
    t.readByte a = s.readByte a := by
  obtain ⟨hcfg, hmem | ⟨b, bs, hcheck, hmem⟩⟩ := exec_memory h
  · exact readByte_congr hmem hcfg a
  · have written : t.readByte a = (s.writeBlock b bs).readByte a :=
      readByte_congr hmem (by rw [hcfg, writeBlock_eq]) a
    have outside : ¬(b ≤ a ∧ a - b < bs.length) := by
      rcases (checkWrite_none b bs.length).1 hcheck with hlen | ⟨hlow, -⟩ <;> omega
    rw [written, readByte_writeBlock, dif_neg outside]

/-- Settles O53: outside its execute step a step writes no memory. -/
theorem reservedRegionIsNeverWritten : Obligations.ReservedRegionIsNeverWritten :=
  ⟨fun s _ a h ha => step_keeps (P := fun u => u.readByte a = s.readByte a) (fun _ _ _ _ _ _ _ _ _ hs => hs)
      (fun _ _ _ hexec hs => (exec_readByte_reserved hexec ha).trans hs) h rfl,
    fun _ _ _ _ => rfl, fun _ _ _ _ => rfl⟩

/-- An execute step keeps the canonical form: it writes inside the array if it writes at all. -/
theorem exec_memoryCanonical {i : Instr} (h : exec i s = .next t) (hs : s.memoryCanonical) : t.memoryCanonical := by
  obtain ⟨hcfg, hmem | ⟨a, bs, hcheck, hmem⟩⟩ := exec_memory h
  · rw [State.memoryCanonical, hmem, hcfg]; exact hs
  · have block_cfg : (s.writeBlock a bs).cfg = s.cfg := by rw [writeBlock_eq]
    rw [State.memoryCanonical, hmem, hcfg, ← block_cfg]
    cases bs with
    | nil => exact hs
    | cons b bs =>
      rcases (checkWrite_none _ _).1 hcheck with hlen | ⟨-, hhigh⟩
      · simp at hlen
      · exact memoryCanonical_writeBlock (b :: bs) s a (by omega) hs

theorem load_memoryCanonical (s : State) {rom : List Byte} (h : rom.length ≤ 3584) : (s.load rom).memoryCanonical :=
  memoryCanonical_writeBlock rom s.clear 0x200 (by omega) (wf_nil s.cfg)

/-- Settles O54: an invariant of the execute step and of a load, whose ROM ends inside the array. -/
theorem memoryStaysCanonical : Obligations.MemoryStaysCanonical :=
  ⟨fun _ _ hs h => step_keeps (fun _ _ _ _ _ _ _ _ _ hs => hs) (fun _ _ _ => exec_memoryCanonical) h hs,
    fun s op => host_keeps s op (fun _ _ _ hs => hs) (fun _ => load_memoryCanonical s)⟩

/-! ### PC and the stack -/

theorem toNat_add_two {a : Word} (h : a.toNat ≤ 0x1000) : (a + 2).toNat = a.toNat + 2 := by bv_omega

theorem toNat_sub_two {a : Word} (h : 2 ≤ a.toNat) : (a - 2).toNat = a.toNat - 2 := by bv_omega

/-- An execute step that starts inside the array's fetch addresses, PC advanced, keeps R26's bounds. -/
theorem exec_pcBounded {i : Instr} (hlow : 2 ≤ s.pc.toNat) (hhigh : s.pc.toNat ≤ 0x1000)
    (hstack : ∀ a ∈ s.stack, a.toNat ≤ 0x1000) (h : exec i s = .next t) : t.pcBounded := by
  rcases exec_movesPc h with ⟨st, pc⟩ | top | ⟨-, st, pc⟩
  · refine ⟨?_, st ▸ hstack⟩
    rcases pc with pc | pc | pc | pc
    · rw [pc]; omega
    · rw [pc, toNat_add_two hhigh]; omega
    · rw [pc, toNat_sub_two hlow]; omega
    · exact pc
  · rw [top] at hstack
    have hpc : t.pc.toNat ≤ 0x1000 := hstack t.pc (by simp)
    exact ⟨by omega, fun a ha => hstack a (List.mem_append_left _ ha)⟩
  · refine ⟨by omega, fun a ha => ?_⟩
    rw [st, List.mem_append, List.mem_singleton] at ha
    rcases ha with ha | rfl
    · exact hstack a ha
    · exact hhigh

theorem fetchedState_pc_toNat (h : s.pc.toNat ≤ 0xFFE) : s.fetchedState.pc.toNat = s.pc.toNat + 2 := by
  rw [State.fetchedState, setPc_pc, toNat_add_two (by omega)]

theorem step_pcBounded (hs : s.pcBounded) (h : step s = .next t) : t.pcBounded := by
  obtain ⟨hpc, hstack⟩ := hs
  rcases step_cases h with ⟨-, rfl⟩ | ⟨-, -, rfl⟩ | ⟨op, r, -, hw, -, rfl⟩ | ⟨op, i, u, -, hw, -, hexec, rfl⟩
  · exact ⟨hpc, hstack⟩
  · exact ⟨hpc, hstack⟩
  all_goals
    have inside : s.pc.toNat ≤ 0xFFE := fetchWord_isSome (by rw [hw]; exact Option.some_ne_none op)
    have advanced := fetchedState_pc_toNat inside
  · exact ⟨by rw [drawInputs_pc, report_pc]; omega, hstack⟩
  · have bounded : u.pcBounded := exec_pcBounded (s := s.fetchedState) (by omega) (by omega) hstack hexec
    exact bounded

theorem load_pcBounded (s : State) (rom : List Byte) : (s.load rom).pcBounded := by
  refine ⟨by rw [load_pc]; decide, fun a ha => ?_⟩
  rw [load_stack] at ha; cases ha

/-- Settles O55: return addresses are post-fetch PCs, so a return stays as bounded as a call found PC. -/
theorem programCounterStaysBounded : Obligations.ProgramCounterStaysBounded :=
  ⟨fun _ _ => step_pcBounded, fun s op => host_keeps s op (fun _ _ _ hs => hs) (fun rom _ => load_pcBounded s rom)⟩

theorem exec_stackWithinLimit {i : Instr} (h : exec i s = .next t) (hs : s.stackWithinLimit) : t.stackWithinLimit := by
  intro n hn
  rw [exec_cfg h] at hn
  have hlen := hs n hn
  rcases exec_movesPc h with ⟨st, -⟩ | top | ⟨room, st, -⟩
  · rw [st]; exact hlen
  · have := congrArg List.length top
    simp only [List.length_append, List.length_singleton] at this
    omega
  · have : n ≠ s.stack.length := fun e => room (e ▸ hn)
    rw [st, List.length_append, List.length_singleton]
    omega

theorem load_stackWithinLimit (s : State) (rom : List Byte) : (s.load rom).stackWithinLimit := by
  intro n _
  rw [load_stack]; exact Nat.zero_le n

/-- Settles O56: only a call makes the stack longer, and it finds it with room. -/
theorem stackStaysWithinItsLimit : Obligations.StackStaysWithinItsLimit :=
  ⟨fun _ _ hs h => step_keeps (fun _ _ _ _ _ _ _ _ _ hs => hs) (fun _ _ _ => exec_stackWithinLimit) h hs,
    fun s op => host_keeps s op (fun _ _ _ hs => hs) (fun rom _ => load_stackWithinLimit s rom)⟩

/-! ### Reset and load -/

/-- `State.reset` is the state after a load of an empty ROM on itself (R341). -/
theorem reset_eq_load : State.reset = State.reset.load [] := rfl

/-- Settles O57: what a load establishes holds of reset, which is a load of nothing. -/
theorem resetMeetsTheInvariants : Obligations.ResetMeetsTheInvariants := by
  rw [Obligations.ResetMeetsTheInvariants, reset_eq_load]
  exact ⟨load_memoryCanonical _ (Nat.zero_le _), load_pcBounded _ [], load_stackWithinLimit _ [], rfl⟩

theorem load_reg (s : State) (rom : List Byte) (r : Reg) : (s.load rom).reg r = 0#8 := by
  rw [load_eq]
  simp [State.reg, State.clear]

/-- Outside FONT reset leaves zeros (R41). -/
theorem resetByte_of_not_font (cfg : Config) {a : Nat} (h : a < 0x050 ∨ 0x0A0 ≤ a) : resetByte cfg a = 0x00#8 := by
  rw [resetByte, dif_neg (by omega)]

theorem resetAndLoad_tooLarge (s : State) {rom : List Byte} (h : 3584 < rom.length) :
    s.resetAndLoad (some rom) = (s, some .tooLarge) := by
  simp only [State.resetAndLoad, if_pos h]

/-- Settles O59: every field of a load from `load_eq`, every byte from `readByte_load`. -/
theorem loadResetsEverything : Obligations.LoadResetsEverything := by
  refine ⟨fun s rom hrom => ⟨s.load rom, resetAndLoad_accepted s rom hrom, load_reg s rom, ?_, load_pc s rom,
    load_stack s rom, ?_, ?_, load_cell s rom, load_readKey s rom, load_fault s rom, load_cfg s rom,
    readByte_load_font s rom, fun k hk => ?_, fun a ha => ?_⟩, fun s rom => resetAndLoad_tooLarge s, fun _ => rfl⟩
  · rw [load_eq]; rfl
  · rw [load_eq]; rfl
  · rw [load_eq]; rfl
  · rw [readByte_load, dif_pos (by omega)]; simp
  · rw [readByte_load, dif_neg (by omega), resetByte_of_not_font s.cfg (by omega)]

/-- Settles O60: a constructed core has no cycle, and only an accepted load makes it a loaded one. -/
theorem resetIsALoadOfNothing : Obligations.ResetIsALoadOfNothing := by
  refine ⟨fun _ => rfl, fun _ _ => ⟨rfl, rfl⟩, fun c op hcycle hop => ?_, fun c rom hrom => ?_, fun _ _ => rfl⟩
  · cases c with
    | loaded s => cases hcycle
    | constructed s =>
      cases op with
      | resetAndLoad rom =>
        cases rom with
        | none => exact ⟨rfl, rfl⟩
        | some bytes =>
          have rejected := resetAndLoad_tooLarge s (hop bytes rfl)
          have host : (Session.constructed s).host (.resetAndLoad (some bytes)) = .constructed s := by
            simp only [Session.host, rejected]
          rw [host]
          exact ⟨rfl, rfl⟩
      | writeKey k pressed => exact ⟨rfl, rfl⟩
      | supply tick rand => exact ⟨rfl, rfl⟩
  · have accepted := resetAndLoad_accepted c.state rom hrom
    cases c with
    | loaded s =>
      have host : s.host (.resetAndLoad (some rom)) = s.load rom := congrArg Prod.fst accepted
      rw [Session.host, host]; rfl
    | constructed s =>
      have accepted' : s.resetAndLoad (some rom) = (s.load rom, none) := accepted
      simp only [Session.host, accepted']; rfl

end Sys2Proof.Machine
end
